-- ==== Sys2Proof/Word.lean ====
section
/-! DEFINITION. The two data words of EBP: 32-bit register values and bytes (spec/00_scope.md R10, R11). -/

namespace Sys2Proof

/-- A register of the window is 32 bits (R10). -/
abbrev Word := BitVec 32

/-- A byte of `STATE`, of the tag and of the hash message. -/
abbrev Byte := BitVec 8

end Sys2Proof
end

