-- ==== Sys2Proof/Config.lean ====
section
/-! DEFINITION. What is fixed for one EBP (spec/00_scope.md R8, R9) and the free values.
The parameters of R9 have no value in the source: each is an opaque constant, so no proof can see one
(DESIGN CHOICE, assumption log 4; safe: a theorem holds for every value). The answers of the ADC are free values
(R55; log 5; safe) and `HASH_FN` is uninterpreted (R58; log 6; safe). -/

namespace Sys2Proof

/-- The 8-byte domain-separation tag (R9: "exactly 8 bytes"). -/
abbrev Tag := Vector Byte 8

/-- What `AdcPoll` answers (R55). -/
inductive PollAnswer where
  | success
  | timeout
  deriving DecidableEq, Repr, Inhabited

/-- Which 256-byte page of the host's address space holds the window. -/
opaque Config.basePage : Nat

/-- `BASE`, aligned to 256 bytes (R9). -/
def Config.base : Nat := 256 * Config.basePage

/-- `ADC_WIDTH` less its least value. -/
opaque Config.adcWidthAbove2 : Fin 31

/-- `ADC_WIDTH`, with 2 ≤ `ADC_WIDTH` ≤ 32 (R9). -/
def Config.adcWidth : Nat := Config.adcWidthAbove2.val + 2

/-- `STATE_BYTES` less its least value. -/
opaque Config.stateBytesAbove8 : Fin 185

/-- `STATE_BYTES`, with 8 ≤ `STATE_BYTES` ≤ 192 (R9). -/
def Config.stateBytes : Nat := Config.stateBytesAbove8.val + 8

/-- `CTX_TAG` (R9; a constant of the block, not a register: 10_state.md R46). -/
opaque Config.ctxTag : Tag

/-- Byte `i` of what `HASH_FN(tag, key, msg, n)` returns; `none` is the absent key (R57, R58). -/
opaque Config.hashByte (tag : Tag) (key : Option (List Byte)) (msg : List Byte) (n i : Nat) : Byte

/-- `HASH_FN(tag, key, msg, n)`, `n` bytes that depend on the arguments alone (R9, R58). -/
def Config.hashFn (tag : Tag) (key : Option (List Byte)) (msg : List Byte) (n : Nat) : List Byte :=
  List.ofFn fun i : Fin n => Config.hashByte tag key msg n i.val

/-- A duration of R9 in some unit; no computed value depends on one (41_sampler.md R104; log 11). -/
abbrev Duration := Nat

opaque Config.tSettle : Duration
opaque Config.tPoll : Duration
opaque Config.tRetryStop : Duration
opaque Config.tRetrySettle : Duration
opaque Config.tDecorr : Duration

/-- FREE VALUE: what the ADC answers to an `AdcPoll` that is its draw number `n` (R55, I2; log 5). -/
opaque Config.adcPollAnswer (n : Nat) : PollAnswer

/-- FREE VALUE: the raw value of an `AdcRead` that is the ADC's draw number `n` (R55, I1; log 5). -/
opaque Config.adcRawValue (n : Nat) : BitVec Config.adcWidth

end Sys2Proof
end

