-- ==== Sys2Proof/Syntax.lean ====
section
/-! DEFINITION. The instructions of EBP: one constructor per row of spec/opcode_table.json, in the table's order.
Host commands (format CMD32), micro-operations (format PHASE4) and register accesses (format HOSTBUS);
spec/30_encoding.md R70, R82. -/

namespace Sys2Proof

/-- The instructions. The only operands are the rejected word of an illegal command, the data of a `CONFIG` write
and the offset of a read (R81, R82). -/
inductive Instr where
  /-- `NOP`, R126. -/
  | nop
  /-- `SEED_INIT`, R127. -/
  | seedInit
  /-- `SAMPLE_WORD`, R128. -/
  | sampleWord
  /-- A command word that is none of the three, R129. -/
  | illegal (word : Word)
  /-- `IDLE`, R33. -/
  | idle
  /-- `H_INIT`, R111. -/
  | hInit
  /-- `S_START`, R87. -/
  | sStart
  /-- `S_SETTLE`, R88. -/
  | sSettle
  /-- `S_POLL`, R89. -/
  | sPoll
  /-- `S_R_STOP`, R91. -/
  | sRStop
  /-- `S_R_WAIT`, R92. -/
  | sRWait
  /-- `S_R_START`, R93. -/
  | sRStart
  /-- `S_R_SETTLE`, R94. -/
  | sRSettle
  /-- `S_READ`, R95. -/
  | sRead
  /-- `S_STOP`, R97. -/
  | sStop
  /-- `S_DECORR`, R98. -/
  | sDecorr
  /-- `H_UPDATE`, R112. -/
  | hUpdate
  /-- `H_FINAL`, R113. -/
  | hFinal
  /-- `DERIVE`, R114. -/
  | derive
  /-- `FAIL`, R99. -/
  | fail
  /-- A 32-bit write of `data` at offset 0x08, R130. -/
  | wr32Config (data : Word)
  /-- A 32-bit read at offset `off`, R131. -/
  | rd32 (off : BitVec 8)
  deriving DecidableEq, Repr

end Sys2Proof
end

