-- ==== Sys2Proof/WellFormed.lean ====
section
/-! DEFINITION. Which instructions have an encoding (spec/30_encoding.md R73; spec/20_memory.md R52). -/

namespace Sys2Proof

/-- An illegal command is any word but the three opcodes (R73); a read's offset is a multiple of 4 (R52). -/
def Instr.wellFormed : Instr → Bool
  | .nop => true
  | .seedInit => true
  | .sampleWord => true
  | .illegal w => w != 0x00000000#32 && w != 0x00000001#32 && w != 0x00000002#32
  | .idle => true
  | .hInit => true
  | .sStart => true
  | .sSettle => true
  | .sPoll => true
  | .sRStop => true
  | .sRWait => true
  | .sRStart => true
  | .sRSettle => true
  | .sRead => true
  | .sStop => true
  | .sDecorr => true
  | .hUpdate => true
  | .hFinal => true
  | .derive => true
  | .fail => true
  | .wr32Config _ => true
  | .rd32 off => off.extractLsb' 0 2 == 0#2

end Sys2Proof
end

