-- ==== Sys2Proof/Decode.lean ====
section
/-! DEFINITION. What selects an instruction, the decoder, and after it the encoder (spec/20_memory.md R50–R53;
spec/30_encoding.md R70–R74, R79, R82). A host access selects a command, a `CONFIG` write or a read; the 4-bit phase
code selects a micro-operation. Decoding is total: what is no row of the table is rejected by name. -/

namespace Sys2Proof

/-- The kind of a bus access and, for a write, its data (R82: "(kind R or W, offset, 32-bit data)"). -/
inductive BusOp where
  | read
  | write (data : Word)
  deriving DecidableEq, Repr

/-- One host bus access at address `BASE + off` (R50). `off` is "the address minus `BASE`", so an address outside the
window has an `off` outside 0 … 255. `size` is the access's width in bytes; a burst is any size but 1, 2 and 4.
DESIGN CHOICE (log 19): the address is carried as `off`. -/
structure Access where
  off : Int
  size : Nat
  op : BusOp
  deriving DecidableEq, Repr

/-- The byte address of an access (R50). -/
def Access.address (a : Access) : Int := (Config.base : Int) + a.off

/-- The access that an address on the host's bus stands for (R50, R51: off = address − `BASE`). -/
def Access.ofAddress (address : Int) (size : Nat) (op : BusOp) : Access :=
  ⟨address - (Config.base : Int), size, op⟩

/-- What an agent presents to the decoder: a bus access (CMD32, HOSTBUS) or the phase code (PHASE4), R70. -/
inductive Fetched where
  | access (a : Access)
  | phase (code : BitVec 4)
  deriving DecidableEq, Repr

/-- Why an access is no instruction of the table. Each has an effect of its own (Machine/Ops.lean, `rejectAccess`). -/
inductive Reject where
  /-- The address is outside the window: the access does not reach EBP (R51). -/
  | notSelected
  /-- Misaligned, or not 32 bits wide (R52). -/
  | busError
  /-- A write to a read-only register or a reserved offset (R53). -/
  | writeIgnored
  deriving DecidableEq, Repr

/-- R72–R74: the whole word is compared with the three opcodes; every other word is illegal. -/
def decodeCommand (c : Word) : Instr :=
  if c = 0x00000000#32 then .nop
  else if c = 0x00000001#32 then .seedInit
  else if c = 0x00000002#32 then .sampleWord
  else .illegal c

/-- R79: each of the sixteen codes selects one micro-operation. -/
def decodePhase (code : BitVec 4) : Instr :=
  match code.toNat with
  | 0x0 => .idle
  | 0x1 => .hInit
  | 0x2 => .sStart
  | 0x3 => .sSettle
  | 0x4 => .sPoll
  | 0x5 => .sRStop
  | 0x6 => .sRWait
  | 0x7 => .sRStart
  | 0x8 => .sRSettle
  | 0x9 => .sRead
  | 0xA => .sStop
  | 0xB => .sDecorr
  | 0xC => .hUpdate
  | 0xD => .hFinal
  | 0xE => .derive
  | _ => .fail

/-- R51: the access falls in the window. -/
def Access.inWindow (a : Access) : Bool := decide (0 ≤ a.off) && decide (a.off < 256)

/-- R52: 32 bits wide, at an address that is a multiple of 4 (`BASE` is one, R9). -/
def Access.answerable (a : Access) : Bool := a.size == 4 && a.off % 4 == 0

/-- The register decode of R51–R53 and the priority of R153: window, bus error, then the register. -/
def decodeAccess (a : Access) : Except Reject Instr :=
  if !a.inWindow then .error .notSelected
  else if !a.answerable then .error .busError
  else match a.op with
    | .read => .ok (.rd32 (BitVec.ofInt 8 a.off))
    | .write v =>
      if a.off = 0x00 then .ok (decodeCommand v)
      else if a.off = 0x08 then .ok (.wr32Config v)
      else .error .writeIgnored

/-- The decoder. -/
def decode : Fetched → Except Reject Instr
  | .access a => decodeAccess a
  | .phase code => .ok (decodePhase code)

/-- A 32-bit write of a command word to `CMD` (R22, R71). -/
def commandWrite (c : Word) : Fetched := .access ⟨0x00, 4, .write c⟩

/-- The encoder, from the tables of R72, R79 and R82. -/
def encode : Instr → Fetched
  | .nop => commandWrite 0x00000000#32
  | .seedInit => commandWrite 0x00000001#32
  | .sampleWord => commandWrite 0x00000002#32
  | .illegal w => commandWrite w
  | .idle => .phase 0x0#4
  | .hInit => .phase 0x1#4
  | .sStart => .phase 0x2#4
  | .sSettle => .phase 0x3#4
  | .sPoll => .phase 0x4#4
  | .sRStop => .phase 0x5#4
  | .sRWait => .phase 0x6#4
  | .sRStart => .phase 0x7#4
  | .sRSettle => .phase 0x8#4
  | .sRead => .phase 0x9#4
  | .sStop => .phase 0xA#4
  | .sDecorr => .phase 0xB#4
  | .hUpdate => .phase 0xC#4
  | .hFinal => .phase 0xD#4
  | .derive => .phase 0xE#4
  | .fail => .phase 0xF#4
  | .wr32Config v => .access ⟨0x08, 4, .write v⟩
  | .rd32 off => .access ⟨(off.toNat : Int), 4, .read⟩

/-- What a word of spec/opcode_table.json stands for: 32 bits are a command word written to `CMD` (format CMD32), 4 bits,
held in one byte, a phase code (format PHASE4). The table gives format HOSTBUS no bits (log 19). -/
def tableWord (nbits w : Nat) : Option Fetched :=
  if nbits = 32 then
    if w < 2 ^ 32 then some (commandWrite (BitVec.ofNat 32 w)) else none
  else if nbits = 4 ∨ nbits = 8 then
    if w < 16 then some (.phase (BitVec.ofNat 4 w)) else none
  else none

/-- The instruction the decoder reads from a word of the opcode table. -/
def decodeTableWord (nbits w : Nat) : Option Instr :=
  match tableWord nbits w with
  | none => none
  | some f =>
    match decode f with
    | .ok i => some i
    | .error _ => none

end Sys2Proof
end

