-- ==== Sys2Proof/Machine/State.lean ====
section
/-! DEFINITION. Everything the spec gives EBP, as plain data (spec/10_state.md), the state of the two external engines
that the spec has a model keep (R44, R58, I9), the environment's schedule, and the reset state (R47). -/

namespace Sys2Proof.Machine

/-- The sequencer's phases, 30_encoding.md R79. All sixteen 4-bit codes are taken, so the type is the register. -/
inductive Phase where
  | idle | hInit | sStart | sSettle | sPoll | sRStop | sRWait | sRStart | sRSettle | sRead | sStop | sDecorr
  | hUpdate | hFinal | derive | fail
  deriving DecidableEq, Repr

/-- `OP`, R80. Code 3 is never written and has no constructor (I11; DEDUCED, log 15). -/
inductive Op where
  | none | seed | sample
  deriving DecidableEq, Repr

/-- `STATUS.ERR`, R78. Codes 4 … 15 are never written and have no constructor (I11; DEDUCED, log 15). -/
inductive Err where
  | ok | illegalCmd | reentry | hwUnavailable
  deriving DecidableEq, Repr

/-- The ADC peripheral's own state: "started/stopped states" (R42). It says whether the environment has an answer to a
transaction (I9; log 9); `ADC_ON` is the block's record of it. -/
inductive AdcState where
  | stopped | started
  deriving DecidableEq, Repr

/-- A port transaction with its request and its response (R55, R57). -/
inductive PortTx where
  | adcStart
  | adcPoll (timeout : Duration) (answer : PollAnswer)
  | adcRead (raw : BitVec Config.adcWidth)
  | adcStop
  | hashInit (tag : Tag) (key : Option (List Byte))
  | hashUpdate (bytes : List Byte)
  | hashFinal (n : Nat) (digest : List Byte)
  deriving DecidableEq, Repr

/-- The ADC transactions of R55, as a stuck sequencer names them. -/
inductive AdcRequest where
  | start | poll | read | stop
  deriving DecidableEq, Repr

/-- What EBP answered to the last host access that reached it (R50, R144; log 13). -/
inductive BusAnswer where
  /-- No access has reached EBP yet. -/
  | quiet
  /-- A write was taken by the bus: carried out, rejected or ignored (R27, R53). -/
  | written
  /-- A read's value (R131). -/
  | data (value : Word)
  /-- `bus_error` (R144). -/
  | error
  deriving DecidableEq, Repr

/-- One move of an agent, for the schedule (R62; log 1). -/
inductive Event where
  /-- The sequencer performs the micro-operation of the current phase. -/
  | sequencer
  /-- The host makes one bus access (R50). -/
  | access (a : Access)
  /-- The host waits for `BUSY`=0 (R83; log 18). -/
  | waitIdle
  /-- The platform resets EBP, and the ADC with it or not (R165, R168; log 10). -/
  | reset (adcToo : Bool)
  deriving DecidableEq, Repr

structure State where
  /-- `STATUS.BUSY`, R24. -/
  busy : Bool
  /-- `STATUS.DONE`, R25. -/
  done : Bool
  /-- `STATUS.INIT`, R26. -/
  init : Bool
  /-- `STATUS.REJ`, R27. -/
  rej : Bool
  /-- `STATUS.ERR`, R28. -/
  err : Err
  /-- `PHASE`, the sequencer's program counter, R33; `STATUS.PHASE` reads it (R29). -/
  phase : Phase
  /-- `OP`, R34; `STATUS.OP` reads it (R29). -/
  op : Op
  /-- `CONFIG.LIMIT`, R30. -/
  limit : BitVec 16
  /-- `CONFIG.LIMIT_EN`, R30. -/
  limitEn : Bool
  /-- `WORD`, R31. -/
  word : Word
  /-- `ACC`, R35. -/
  acc : Word
  /-- `BITCNT`, R36. -/
  bitcnt : BitVec 6
  /-- `EBITS`, R37. -/
  ebits : BitVec 9
  /-- `RCNT`, R38. -/
  rcnt : BitVec 16
  /-- `STATE[0..STATE_BYTES-1]`, byte 0 first, R40. -/
  ctxState : List Byte
  /-- `COUNTER`, R39. -/
  counter : BitVec 64
  /-- `ADC_ON`, R42. -/
  adcOn : Bool
  /-- `HCTX_OPEN`, R43. -/
  hctxOpen : Bool
  /-- `HTAG` of the external hash context, R58. -/
  htag : Tag
  /-- `HMSG`, the bytes fed since the last `HashInit`, R44, R58. -/
  hmsg : List Byte
  /-- The ADC peripheral, R42, R168, I9. -/
  adc : AdcState
  /-- MODEL: how many draws the ADC has answered; the free values are applied to it (R55; log 5). -/
  draws : Nat
  /-- MODEL: the moves still scheduled, the next one first; when it is empty the sequencer moves (R62; log 1). -/
  agenda : List Event
  /-- MODEL: what the host last got back (R50; log 13). -/
  bus : BusAnswer
  /-- MODEL: the port transactions so far, newest first (R55, R57; log 12). -/
  ports : List PortTx
  deriving DecidableEq, Repr

/-- Why a step stops. Every other outcome of the spec is a next state (R140: "No error stops the block"). -/
inductive Fault where
  /-- Raised by `rd32` of `COUNTER_LO`, `COUNTER_HI` or a `STATE_W[k]` with 4·k < `STATE_BYTES` while `INIT`=0 (R149: "A model
  shall treat such a read as a fault of the host program"). Safe: the chip answers some value (log 8). -/
  | contextReadBeforeInit (off : BitVec 8)
  /-- Raised by the micro-operations with an ADC transaction, where the ADC's contract gives no answer: a start while
  started, a stop, poll or read while stopped (I9: "model: `stuck` if one would be issued"). Safe (log 9). -/
  | adcUnanswered (request : AdcRequest)
  deriving DecidableEq, Repr

/-- Why an instruction has no meaning. -/
inductive Refusal where
  /-- Raised by an arm of `exec` whose instruction has no meaning yet; no arm is left so. Safe. -/
  | notModelled (mnemonic : String)
  deriving DecidableEq, Repr

/-- The machine right after reset (R47, R165). `STATE` and `COUNTER` are "unspecified": DESIGN CHOICE zero, unsafe
(log 7); a host read of them faults until `INIT`=1. The ADC is stopped (R168). The hash engine's context (log 14)
and the model's own fields (logs 1, 5, 12, 13) have no reset value in the spec: DESIGN CHOICE. -/
def State.reset : State where
  busy := false
  done := false
  init := false
  rej := false
  err := .ok
  phase := .idle
  op := .none
  limit := 0
  limitEn := false
  word := 0
  acc := 0
  bitcnt := 0
  ebits := 0
  rcnt := 0
  ctxState := List.replicate Config.stateBytes 0
  counter := 0
  adcOn := false
  hctxOpen := false
  htag := Vector.replicate 8 0
  hmsg := []
  adc := .stopped
  draws := 0
  agenda := []
  bus := .quiet
  ports := []

end Sys2Proof.Machine
end

