-- ==== Sys2Proof/Machine/Operands.lean ====
section
/-! DEFINITION. Operand forms and value functions: the pack function, byte orders, the counter function, the fields of
a written `CONFIG` word (spec/30_encoding.md R75, R81; 41_sampler.md R96; 42_conditioner.md R115; 00_scope.md R12). -/

namespace Sys2Proof.Machine

/-- `raw[1:0]`, the two bits kept of a conversion (R81, R95). -/
def lowBits (raw : BitVec Config.adcWidth) : BitVec 2 := raw.extractLsb' 0 2

/-- `PACK` on the two bits kept: ((a << 2) | zext_32(bits)) mod 2^32 (R96). -/
def packBits (a : Word) (bits : BitVec 2) : Word := (a <<< 2) ||| bits.setWidth 32

/-- `PACK(a, raw)`, R96. -/
def pack (a : Word) (raw : BitVec Config.adcWidth) : Word := packBits a (lowBits raw)

/-- `RCNT` after one more retried timeout: plus 1, saturating at 0xFFFF (R38, R89). -/
def countRetry (rcnt : BitVec 16) : BitVec 16 := if rcnt = 0xFFFF#16 then 0xFFFF#16 else rcnt + 1#16

/-- `bytes_LE(w)`: w[7:0], w[15:8], w[23:16], w[31:24] (R12, R59). -/
def bytesLE (w : Word) : List Byte :=
  [w.extractLsb' 0 8, w.extractLsb' 8 8, w.extractLsb' 16 8, w.extractLsb' 24 8]

/-- The little-endian integer of a byte sequence (R12). -/
def leNat : List Byte → Nat
  | [] => 0
  | b :: bs => b.toNat + 256 * leNat bs

/-- `LE_64` of the first eight bytes (R12, R60). -/
def le64 (bytes : List Byte) : BitVec 64 := BitVec.ofNat 64 (leNat (bytes.take 8))

/-- `CTR(STATE[0..7])`, the counter function (R115). -/
def ctr (bytes : List Byte) : BitVec 64 := ~~~ le64 bytes

/-- `LIMIT` of a written word: bits 15:0, unscaled (R75, R81). -/
def limitField (v : Word) : BitVec 16 := v.extractLsb' 0 16

/-- `LIMIT_EN` of a written word: bit 16; bits 31:17 are ignored (R75, R130). -/
def limitEnField (v : Word) : Bool := v.getLsbD 16

/-- Byte `i` of the context's state as the window shows it: 0x00 from `STATE_BYTES` on (R40). -/
def ctxByte (s : State) (i : Nat) : Byte := if i < Config.stateBytes then s.ctxState.getD i 0 else 0

/-- The index k of the `STATE_W[k]` at offset 0x40 + 4·k (R21, R51). -/
def stateWIndex (off : BitVec 8) : Nat := (off.toNat - 0x40) / 4

/-- R52 for the offset of a read: a multiple of 4. -/
def aligned (off : BitVec 8) : Bool := off.extractLsb' 0 2 == 0#2

/-- R149: the offsets whose read needs `INIT`=1: `COUNTER_LO`, `COUNTER_HI` and `STATE_W[k]` with 4·k < `STATE_BYTES`. -/
def readsContext (off : BitVec 8) : Bool :=
  off == 0x14#8 || off == 0x18#8 || (decide (0x40 ≤ off.toNat) && decide (4 * stateWIndex off < Config.stateBytes))

end Sys2Proof.Machine
end

