-- ==== Sys2Proof/Machine/Flags.lean ====
section
/-! DEFINITION. The register formats the host sees: the codes of `OP`, `ERR` and `PHASE`, the words `STATUS`, `CONFIG`,
`PROGRESS`, `STATE_W[k]`, and the register map of a read (spec/30_encoding.md R75–R80; spec/10_state.md R21–R40). EBP has
no arithmetic flags (R45). -/

namespace Sys2Proof.Machine

/-- R80. -/
def Op.code : Op → BitVec 2
  | .none => 0
  | .seed => 1
  | .sample => 2

/-- R78. -/
def Err.code : Err → BitVec 4
  | .ok => 0
  | .illegalCmd => 1
  | .reentry => 2
  | .hwUnavailable => 3

/-- R79. -/
def Phase.code : Phase → BitVec 4
  | .idle => 0x0
  | .hInit => 0x1
  | .sStart => 0x2
  | .sSettle => 0x3
  | .sPoll => 0x4
  | .sRStop => 0x5
  | .sRWait => 0x6
  | .sRStart => 0x7
  | .sRSettle => 0x8
  | .sRead => 0x9
  | .sStop => 0xA
  | .sDecorr => 0xB
  | .hUpdate => 0xC
  | .hFinal => 0xD
  | .derive => 0xE
  | .fail => 0xF

/-- The phase a 4-bit code names (R79). -/
def Phase.ofCode (c : BitVec 4) : Phase :=
  match c.toNat with
  | 0x0 => .idle
  | 0x1 => .hInit
  | 0x2 => .sStart
  | 0x3 => .sSettle
  | 0x4 => .sPoll
  | 0x5 => .sRStop
  | 0x6 => .sRWait
  | 0x7 => .sRStart
  | 0x8 => .sRSettle
  | 0x9 => .sRead
  | 0xA => .sStop
  | 0xB => .sDecorr
  | 0xC => .hUpdate
  | 0xD => .hFinal
  | 0xE => .derive
  | _ => .fail

/-- One bit as a 32-bit value. -/
def bitWord (b : Bool) : Word := (BitVec.ofBool b).setWidth 32

/-- The read value of `STATUS`, R76. -/
def statusWord (s : State) : Word :=
  (s.op.code.setWidth 32 <<< 12) ||| (s.phase.code.setWidth 32 <<< 8) ||| (s.err.code.setWidth 32 <<< 4)
    ||| (bitWord s.rej <<< 3) ||| (bitWord s.init <<< 2) ||| (bitWord s.done <<< 1) ||| bitWord s.busy

/-- The read value of `CONFIG`: zext_32 of LIMIT_EN above LIMIT, R75. -/
def configWord (s : State) : Word := (bitWord s.limitEn <<< 16) ||| s.limit.setWidth 32

/-- The read value of `PROGRESS`, R77. -/
def progressWord (s : State) : Word := (s.ebits.setWidth 32 <<< 16) ||| s.bitcnt.setWidth 32

/-- The read value of `STATE_W[k]`, R40. -/
def stateW (s : State) (k : Nat) : Word :=
  (ctxByte s (4 * k + 3)) ++ (ctxByte s (4 * k + 2)) ++ (ctxByte s (4 * k + 1)) ++ (ctxByte s (4 * k))

/-- The value of the register at an aligned offset (R21, R51, R53, R131): `CMD` and the reserved offsets read zero. -/
def readRegister (s : State) (off : BitVec 8) : Word :=
  if off = 0x04#8 then statusWord s
  else if off = 0x08#8 then configWord s
  else if off = 0x0C#8 then s.word
  else if off = 0x10#8 then progressWord s
  else if off = 0x14#8 then s.counter.extractLsb' 0 32
  else if off = 0x18#8 then s.counter.extractLsb' 32 32
  else if 0x40 ≤ off.toNat then stateW s (stateWIndex off)
  else 0x00000000#32

end Sys2Proof.Machine
end

