-- ==== Sys2Proof/Machine/Ops.lean ====
section
/-! DEFINITION. The operations the meanings share: ending a command and reporting an error, beginning a word, accepting
and rejecting a write, the port transactions, a delay, the answer to an access that is no instruction, and reset. -/

namespace Sys2Proof.Machine

/-- The outcome of a step of this machine. -/
abbrev Result := Host.Outcome State Fault Refusal

/-! ### Ending a command: EBP's form of taking an exception -/

/-- `Finish(e)`, R132. An error saves nothing but `ERR`, changes no mode and goes to `IDLE` (R155); there is no return (R156). -/
def finish (e : Err) (s : State) : State := { s with err := e, done := true, busy := false, phase := .idle }

/-- `BeginWord`, R86. -/
def beginWord (s : State) : State := { s with acc := 0x00000000#32, bitcnt := 0, phase := .sStart }

/-! ### Host writes -/

/-- The host gets an answer (log 13). -/
def answer (b : BusAnswer) (s : State) : State := { s with bus := b }

/-- A rejected write: `REJ` and nothing else (R125, R130, R145). -/
def rejectWrite (s : State) : State := { s with rej := true }

/-- The first effects of an accepted command (R125). -/
def openCommand (s : State) : State := { s with rej := false, err := .ok, done := false }

/-- A write of a command word, R125: rejected while `BUSY`=1, else accepted and then what the command does. -/
def command (body : State → State) (s : State) : State :=
  answer .written (if s.busy then rejectWrite s else body (openCommand s))

/-- What an access that is no instruction does: an access outside the window does not reach EBP (R51), a misaligned or
narrow one gets the error answer and changes nothing (R52, R144), a write to a read-only register or a reserved offset is
ignored (R53; its bus answer is DEDUCED, log 13). -/
def rejectAccess (r : Reject) (s : State) : State :=
  match r with
  | .notSelected => s
  | .busError => answer .error s
  | .writeIgnored => answer .written s

/-! ### Port transactions -/

/-- A transaction has been issued (log 12). -/
def logPort (t : PortTx) (s : State) : State := { s with ports := t :: s.ports }

/-- `AdcStart()`, R55; stuck while the ADC is started (I9; log 9). `k` is the rest of the micro-operation. -/
def adcStart (k : State → State) (s : State) : Result :=
  if s.adc = .stopped then .next (k (logPort .adcStart { s with adc := .started })) else .fault (.adcUnanswered .start)

/-- `AdcStop()`, R55; stuck while the ADC is stopped (I9; log 9). -/
def adcStop (k : State → State) (s : State) : Result :=
  if s.adc = .started then .next (k (logPort .adcStop { s with adc := .stopped })) else .fault (.adcUnanswered .stop)

/-- `AdcPoll(T_POLL)`, R55: the answer is the ADC's next draw, a free value (log 5); stuck while stopped (I9). -/
def adcPoll (k : PollAnswer → State → State) (s : State) : Result :=
  if s.adc = .started then
    .next (k (Config.adcPollAnswer s.draws)
      (logPort (.adcPoll Config.tPoll (Config.adcPollAnswer s.draws)) { s with draws := s.draws + 1 }))
  else .fault (.adcUnanswered .poll)

/-- `AdcRead()`, R55: the value is the ADC's next draw, a free value (log 5); stuck while stopped (I9). -/
def adcRead (k : BitVec Config.adcWidth → State → State) (s : State) : Result :=
  if s.adc = .started then
    .next (k (Config.adcRawValue s.draws)
      (logPort (.adcRead (Config.adcRawValue s.draws)) { s with draws := s.draws + 1 }))
  else .fault (.adcUnanswered .read)

/-- `HashInit(tag, none)`, R58: the engine starts a fresh context, an abandoned one or none before it (I10). -/
def hashInit (tag : Tag) (s : State) : State := logPort (.hashInit tag none) { s with htag := tag, hmsg := [] }

/-- `HashUpdate(b)`, R58. -/
def hashUpdate (b : List Byte) (s : State) : State := logPort (.hashUpdate b) { s with hmsg := s.hmsg ++ b }

/-- What `HashFinal(n)` returns, R58. -/
def digest (n : Nat) (s : State) : List Byte := Config.hashFn s.htag none s.hmsg n

/-- `HashFinal(n)`, R58, with what it returned; `HMSG` keeps the bytes fed (R44; log 14). -/
def hashFinal (n : Nat) (s : State) : State := logPort (.hashFinal n (digest n s)) s

/-- `Wait(t)`: "a delay of duration t with no other effect" (R13); one step, no time (R104; log 11). -/
def wait (_t : Duration) (s : State) : State := s

/-! ### Reset -/

/-- Reset, R165: every register of EBP at its value of R47, with no port transaction (R166). The hash engine, the ADC's
draws and what lies outside EBP keep what they have. The ADC is stopped if the platform resets it too, its duty (R168),
and else keeps running or not (log 10). -/
def platformReset (adcToo : Bool) (s : State) : State :=
  { State.reset with
    htag := s.htag, hmsg := s.hmsg, adc := if adcToo then .stopped else s.adc, draws := s.draws
    agenda := s.agenda, bus := s.bus, ports := s.ports }

end Sys2Proof.Machine
end

