-- ==== Sys2Proof/Machine/Commands.lean ====
section
/-! DEFINITION. The host commands (spec/43_commands.md R125–R129, R132). Each is one host step on a write to `CMD`. -/

namespace Sys2Proof.Machine

/-- `NOP`, R126. -/
def execNop (s : State) : Result :=
  .next (command (fun t => finish .ok { t with op := .none }) s)

/-- `SEED_INIT`, R127: `REENTRY` after success, else the seed operation starts. -/
def execSeedInit (s : State) : Result :=
  .next (command (fun t =>
    if t.init then finish .reentry { t with op := .seed }
    else { t with op := .seed, busy := true, phase := .hInit }) s)

/-- `SAMPLE_WORD`, R128. -/
def execSampleWord (s : State) : Result :=
  .next (command (fun t => beginWord { t with op := .sample, busy := true }) s)

/-- Any other command word, R129: `ILLEGAL_CMD`, whatever the word. -/
def execIllegal (_word : Word) (s : State) : Result :=
  .next (command (fun t => finish .illegalCmd { t with op := .none }) s)

end Sys2Proof.Machine
end

