-- ==== Sys2Proof/Machine/Conditioner.lean ====
section
/-! DEFINITION. The micro-operations of the Seed Conditioner (spec/42_conditioner.md R111–R115). -/

namespace Sys2Proof.Machine

/-- `H_INIT`, R111. -/
def execHInit (s : State) : Result :=
  .next (beginWord { hashInit Config.ctxTag s with hctxOpen := true, ebits := 0 })

/-- The loop test of `H_UPDATE`, R112: "While it is below 256". -/
def feedNext (s : State) : State := if s.ebits.toNat < 256 then beginWord s else { s with phase := .hFinal }

/-- `H_UPDATE`, R112: the word is fed in the byte order of R59. -/
def execHUpdate (s : State) : Result :=
  .next (feedNext { hashUpdate (bytesLE s.acc) s with ebits := s.ebits + 32#9 })

/-- `H_FINAL`, R113. -/
def execHFinal (s : State) : Result :=
  .next { hashFinal Config.stateBytes s with
    ctxState := digest Config.stateBytes s, hctxOpen := false, phase := .derive }

/-- `DERIVE`, R114: the counter and `INIT` change in one step. -/
def execDerive (s : State) : Result :=
  .next (finish .ok { s with counter := ctr s.ctxState, init := true, acc := 0x00000000#32 })

end Sys2Proof.Machine
end

