-- ==== Sys2Proof/Machine/HostBus.lean ====
section
/-! DEFINITION. The register accesses that are instructions: a `CONFIG` write and a read (spec/43_commands.md R130, R131). -/

namespace Sys2Proof.Machine

/-- A write of `CONFIG`, R130: rejected while `BUSY`=1. An accepted one clears no flag. -/
def execWr32Config (data : Word) (s : State) : Result :=
  .next (answer .written
    (if s.busy then rejectWrite s else { s with limit := limitField data, limitEn := limitEnField data }))

/-- A read, R131: no side effect (R54). A misaligned offset gets `bus_error` (R52), and a read of the context before
`INIT`=1 is the host program's fault (R149; log 8). -/
def execRd32 (off : BitVec 8) (s : State) : Result :=
  if aligned off then
    if readsContext off && !s.init then .fault (.contextReadBeforeInit off)
    else .next (answer (.data (readRegister s off)) s)
  else .next (answer .error s)

end Sys2Proof.Machine
end

