-- ==== Sys2Proof/Machine/Sampler.lean ====
section
/-! DEFINITION. The micro-operations of the Entropy Sampler and `IDLE` (spec/41_sampler.md R87–R99; spec/10_state.md R33). -/

namespace Sys2Proof.Machine

/-- `IDLE`, R33: "In IDLE the sequencer has no step"; it keeps all state (R162). A step here leaves the state as it is
(DEDUCED, log 3). -/
def execIdle (s : State) : Result := .next s

/-- `S_START`, R87. -/
def execSStart (s : State) : Result :=
  adcStart (fun t => { t with adcOn := true, rcnt := 0, phase := .sSettle }) s

/-- `S_SETTLE`, R88. -/
def execSSettle (s : State) : Result := .next { wait Config.tSettle s with phase := .sPoll }

/-- What `S_POLL` does with the ADC's answer (R89). The bound counts retries of one sample (R90). -/
def pollNext (r : PollAnswer) (s : State) : State :=
  match r with
  | .success => { s with phase := .sRead }
  | .timeout =>
    if s.limitEn ∧ s.rcnt = s.limit then { s with phase := .fail }
    else { s with rcnt := countRetry s.rcnt, phase := .sRStop }

/-- `S_POLL`, R89. -/
def execSPoll (s : State) : Result := adcPoll pollNext s

/-- `S_R_STOP`, R91. -/
def execSRStop (s : State) : Result := adcStop (fun t => { t with adcOn := false, phase := .sRWait }) s

/-- `S_R_WAIT`, R92. -/
def execSRWait (s : State) : Result := .next { wait Config.tRetryStop s with phase := .sRStart }

/-- `S_R_START`, R93: `RCNT` is kept. -/
def execSRStart (s : State) : Result := adcStart (fun t => { t with adcOn := true, phase := .sRSettle }) s

/-- `S_R_SETTLE`, R94. -/
def execSRSettle (s : State) : Result := .next { wait Config.tRetrySettle s with phase := .sPoll }

/-- What `S_READ` does with the raw value (R95). -/
def packSample (raw : BitVec Config.adcWidth) (s : State) : State :=
  { s with acc := pack s.acc raw, bitcnt := s.bitcnt + 2#6, phase := .sStop }

/-- `S_READ`, R95. -/
def execSRead (s : State) : Result := adcRead packSample s

/-- `S_STOP`, R97. -/
def execSStop (s : State) : Result := adcStop (fun t => { t with adcOn := false, phase := .sDecorr }) s

/-- What `S_DECORR` does after its delay: the loop test of R98. The last branch is the rule's `else` (`OP` is `SEED` in
every reachable state; log 20). -/
def decorrNext (s : State) : State :=
  if s.bitcnt.toNat < 32 then { s with phase := .sStart }
  else if s.op = .sample then finish .ok { s with word := s.acc }
  else { s with phase := .hUpdate }

/-- `S_DECORR`, R98. -/
def execSDecorr (s : State) : Result := .next (decorrNext (wait Config.tDecorr s))

/-- `FAIL`, R99. -/
def execFail (s : State) : Result :=
  adcStop (fun t => finish .hwUnavailable { t with adcOn := false, hctxOpen := false }) s

end Sys2Proof.Machine
end

