-- ==== Sys2Proof/Machine/Dispatch.lean ====
section
/-! DEFINITION. Which meaning each instruction has: one arm per constructor. -/

namespace Sys2Proof.Machine

def exec (i : Instr) (s : State) : Host.Outcome State Fault Refusal :=
  match i with
  | .nop => Sys2Proof.Machine.execNop s
  | .seedInit => Sys2Proof.Machine.execSeedInit s
  | .sampleWord => Sys2Proof.Machine.execSampleWord s
  | .illegal word => Sys2Proof.Machine.execIllegal word s
  | .idle => Sys2Proof.Machine.execIdle s
  | .hInit => Sys2Proof.Machine.execHInit s
  | .sStart => Sys2Proof.Machine.execSStart s
  | .sSettle => Sys2Proof.Machine.execSSettle s
  | .sPoll => Sys2Proof.Machine.execSPoll s
  | .sRStop => Sys2Proof.Machine.execSRStop s
  | .sRWait => Sys2Proof.Machine.execSRWait s
  | .sRStart => Sys2Proof.Machine.execSRStart s
  | .sRSettle => Sys2Proof.Machine.execSRSettle s
  | .sRead => Sys2Proof.Machine.execSRead s
  | .sStop => Sys2Proof.Machine.execSStop s
  | .sDecorr => Sys2Proof.Machine.execSDecorr s
  | .hUpdate => Sys2Proof.Machine.execHUpdate s
  | .hFinal => Sys2Proof.Machine.execHFinal s
  | .derive => Sys2Proof.Machine.execDerive s
  | .fail => Sys2Proof.Machine.execFail s
  | .wr32Config data => Sys2Proof.Machine.execWr32Config data s
  | .rd32 off => Sys2Proof.Machine.execRd32 off s

end Sys2Proof.Machine
end

