-- ==== Sys2Proof/Machine/Agents.lean ====
section
/-! DEFINITION. The moves of the agents: the sequencer's step, the host's access, the host's wait, the platform's reset
(spec/20_memory.md R50, R62; spec/30_encoding.md R83; spec/70_reset_and_hazards.md R165), and placing an instruction. -/

namespace Sys2Proof.Machine

/-- The sequencer's step: the micro-operation its phase code selects (R33, R79). -/
def sequencerStep (s : State) : Result := exec (decodePhase s.phase.code) s

/-- The host's step: the access is decoded, and carried out or answered as R51–R53 say. -/
def hostAccess (a : Access) (s : State) : Result :=
  match decode (.access a) with
  | .ok i => exec i s
  | .error r => .next (rejectAccess r s)

/-- One turn of `WAIT_IDLE`, R83: read `STATUS`; while bit 0 reads 1, wait on. Between two reads the sequencer makes one
step (DESIGN CHOICE, log 18: the schedule is the spec's to leave open). -/
def waitIdleStep (s : State) : Result :=
  let t := answer (.data (statusWord s)) s
  .next (if (statusWord s).getLsbD 0 then { t with agenda := .sequencer :: .waitIdle :: t.agenda } else t)

/-- `CMD_SYNC c`, R83, as the host's moves. -/
def cmdSync (c : Word) : List Event := [.access ⟨0x00, 4, .write c⟩, .waitIdle]

/-- One scheduled move. -/
def runEvent (e : Event) (s : State) : Result :=
  match e with
  | .sequencer => sequencerStep s
  | .access a => hostAccess a s
  | .waitIdle => waitIdleStep s
  | .reset adcToo => .next (platformReset adcToo s)

/-- The state of the ADC in which a phase's transaction has an answer (R55, I9); none for a phase without one. -/
def adcNeeded : Phase → Option AdcState
  | .sStart => some .stopped
  | .sRStart => some .stopped
  | .sPoll => some .started
  | .sRStop => some .started
  | .sRead => some .started
  | .sStop => some .started
  | .fail => some .started
  | .idle => none
  | .hInit => none
  | .sSettle => none
  | .sRWait => none
  | .sRSettle => none
  | .sDecorr => none
  | .hUpdate => none
  | .hFinal => none
  | .derive => none

/-- The sequencer stands at a phase: `BUSY` with it (R24), and `ADC_ON` and the ADC as its transaction needs them (R56). -/
def enterPhase (p : Phase) (s : State) : State :=
  let t := { s with phase := p, busy := p != .idle }
  match adcNeeded p with
  | none => t
  | some a => { t with adc := a, adcOn := a == .started }

/-- The next move is exactly this instruction's (log 2): a host access goes first on the schedule; for a phase code the
sequencer stands at that phase and moves first. -/
def placeFetched (f : Fetched) (s : State) : State :=
  match f with
  | .access a => { s with agenda := .access a :: s.agenda }
  | .phase c => { enterPhase (Phase.ofCode c) s with agenda := .sequencer :: s.agenda }

/-- `placeFetched` for a word of the opcode table; a word that is none changes nothing. -/
def placeTableWord (s : State) (nbits w : Nat) : State :=
  match tableWord nbits w with
  | none => s
  | some f => placeFetched f s

end Sys2Proof.Machine
end

