-- ==== Sys2Proof/Safety.lean ====
section
/-! DEFINITION. What the statements are said in: the invariants of spec/10_state.md R48 and what they need to be kept by
every step, the words and the hash message that the ADC's answers make (spec/41_sampler.md R101; 42_conditioner.md R117),
the register window as the host sees it, and the states a run reaches. -/

namespace Sys2Proof.Machine

/-! ### Classes of phases -/

/-- The phases with codes 0x3 … 0xB and `FAIL`, in which `RCNT` is of the current sample (R48). -/
def Phase.counting : Phase → Bool
  | .sSettle | .sPoll | .sRStop | .sRWait | .sRStart | .sRSettle | .sRead | .sStop | .sDecorr | .fail => true
  | .idle | .hInit | .sStart | .hUpdate | .hFinal | .derive => false

/-- The phases in which the word's next sample is still to be packed. -/
def Phase.beforePack : Phase → Bool
  | .sStart | .sSettle | .sPoll | .sRStop | .sRWait | .sRStart | .sRSettle | .sRead | .fail => true
  | .idle | .hInit | .sStop | .sDecorr | .hUpdate | .hFinal | .derive => false

/-- The phases in which a word is being built or has just been completed. -/
def Phase.building : Phase → Bool
  | .sStart | .sSettle | .sPoll | .sRStop | .sRWait | .sRStart | .sRSettle | .sRead | .sStop | .sDecorr | .fail
  | .hUpdate => true
  | .idle | .hInit | .hFinal | .derive => false

/-- The phases of the feeder, which only a seed operation enters (R110). -/
def Phase.feeder : Phase → Bool
  | .hInit | .hUpdate | .hFinal | .derive => true
  | .idle | .sStart | .sSettle | .sPoll | .sRStop | .sRWait | .sRStart | .sRSettle | .sRead | .sStop | .sDecorr
  | .fail => false

/-- The phases entered with the ADC started (R56, R87–R99). -/
def Phase.adcRuns : Phase → Bool
  | .sSettle | .sPoll | .sRStop | .sRSettle | .sRead | .sStop | .fail => true
  | .idle | .hInit | .sStart | .sRWait | .sRStart | .sDecorr | .hUpdate | .hFinal | .derive => false

/-! ### The invariants -/

/-- The list of R48, clause by clause, for one state. -/
structure Invariants48 (s : State) : Prop where
  bitcnt_even : s.bitcnt.toNat % 2 = 0
  bitcnt_le : s.bitcnt.toNat ≤ 32
  ebits_multiple : s.ebits.toNat % 32 = 0
  ebits_le : s.ebits.toNat ≤ 256
  busy_iff : s.busy = true ↔ s.phase ≠ .idle
  idle_stopped : s.phase = .idle → s.adcOn = false ∧ s.hctxOpen = false
  open_seed : s.hctxOpen = true → s.op = .seed
  init_counter : s.init = true → s.counter = ctr s.ctxState
  rcnt_le : s.limitEn = true → s.phase.counting = true → s.rcnt.toNat ≤ s.limit.toNat

/-- R48 and what each phase has of the other registers, so that every step keeps it. -/
structure Inv (s : State) : Prop extends Invariants48 s where
  /-- `ADC_ON` is 1 exactly in the phases that follow an `AdcStart` and precede the `AdcStop` (R42, R56). -/
  adc_phase : s.adcOn = s.phase.adcRuns
  /-- A running operation is a seed or a sample, and the feeder's phases are a seed's (R34, R110). -/
  op_busy : s.phase ≠ .idle → s.op ≠ .none
  op_feeder : s.phase.feeder = true → s.op = .seed
  /-- A running operation has not completed and has no error yet (R25, R78). -/
  running : s.phase ≠ .idle → s.done = false ∧ s.err = .ok
  /-- A seed has its hash context open from `H_INIT` to `H_FINAL` or `FAIL` (R43). -/
  open_phase : s.hctxOpen = true ↔ s.op = .seed ∧ (s.phase.building = true ∨ s.phase = .hFinal)
  /-- A seed runs only while the context has not been written (R127). -/
  seed_once : s.phase ≠ .idle → s.op = .seed → s.init = false
  /-- A sample is still to come before the word is complete, and a word handed to the feeder is complete (R98, R112). -/
  bitcnt_lt : s.phase.beforePack = true → s.bitcnt.toNat < 32
  bitcnt_full : s.phase = .hUpdate → s.bitcnt.toNat = 32
  /-- The feed loop runs below 256 bits and ends at 256 (R112). -/
  ebits_lt : s.op = .seed → s.phase.building = true → s.ebits.toNat < 256
  ebits_full : s.phase = .hFinal ∨ s.phase = .derive → s.ebits.toNat = 256
  /-- `FAIL` follows a timeout at the bound, with the bound in force (R89, R146). -/
  fail_bound : s.phase = .fail → s.limitEn = true ∧ s.rcnt = s.limit
  /-- An `AdcRead` follows directly on an `AdcPoll` answered `Success` (R56). -/
  read_ready : s.phase = .sRead → s.ports.head? = some (.adcPoll Config.tPoll .success)
  /-- `STATE` has `STATE_BYTES` bytes (R40). -/
  state_length : s.ctxState.length = Config.stateBytes

/-- The block's record `ADC_ON` is true of the peripheral: the platform has kept its duty of R168. -/
def AdcInStep (s : State) : Prop := s.adc = if s.adcOn then AdcState.started else AdcState.stopped

/-! ### What the answers of the ADC make -/

/-- The values the ADC returned to `AdcRead`, newest first, from the transactions, newest first. -/
def reads : List PortTx → List (BitVec Config.adcWidth)
  | [] => []
  | .adcRead raw :: rest => raw :: reads rest
  | .adcStart :: rest => reads rest
  | .adcPoll _ _ :: rest => reads rest
  | .adcStop :: rest => reads rest
  | .hashInit _ _ :: rest => reads rest
  | .hashUpdate _ :: rest => reads rest
  | .hashFinal _ _ :: rest => reads rest

/-- `PACK` over raw values, newest first, from an accumulator of 0 (R86, R95). -/
def packAll (raws : List (BitVec Config.adcWidth)) : Word := raws.foldr (fun raw a => pack a raw) 0

/-- The concatenated bytes of the last `k` words of 16 samples each, the words in acquisition order (R117). -/
def seedMessage : Nat → List (BitVec Config.adcWidth) → List Byte
  | 0, _ => []
  | k + 1, raws => seedMessage k (raws.drop 16) ++ bytesLE (packAll (raws.take 16))

/-- The bit-packer and the feeder hold what the reads of the running operation make (R101, R102, R117). -/
structure DataInv (s : State) : Prop where
  /-- The accumulator is the packing of the samples of the current word. -/
  acc_eq : s.phase.building = true → s.acc = packAll ((reads s.ports).take (s.bitcnt.toNat / 2))
  /-- The open context has the block's tag. -/
  tag_eq : s.hctxOpen = true → s.htag = Config.ctxTag
  /-- The message is the words already fed. -/
  msg_building : s.hctxOpen = true → s.phase.building = true →
    s.hmsg = seedMessage (s.ebits.toNat / 32) ((reads s.ports).drop (s.bitcnt.toNat / 2))
  msg_final : s.phase = .hFinal ∨ s.phase = .derive → s.hmsg = seedMessage 8 (reads s.ports)
  /-- `STATE` is the hash of the message under the tag, from `H_FINAL` on (R113, R117). -/
  state_derive : s.phase = .derive → s.ctxState = Config.hashFn Config.ctxTag none s.hmsg Config.stateBytes
  state_init : s.init = true → s.ctxState = Config.hashFn Config.ctxTag none s.hmsg Config.stateBytes

/-! ### What the host sees, and runs -/

/-- What a 32-bit read at an offset gives the host: a value, the bus's error, or nothing where the read is the host
program's fault (R52, R131, R149). -/
def hostSees (s : State) (off : BitVec 8) : Option BusAnswer :=
  match exec (.rd32 off) s with
  | .next t => some t.bus
  | .fault _ => none
  | .refused _ => none

/-- The registers of R47, all of EBP's own state, are the same in two states. -/
def SameBlock (s t : State) : Prop :=
  t.busy = s.busy ∧ t.done = s.done ∧ t.init = s.init ∧ t.rej = s.rej ∧ t.err = s.err ∧ t.phase = s.phase ∧
  t.op = s.op ∧ t.limit = s.limit ∧ t.limitEn = s.limitEn ∧ t.word = s.word ∧ t.acc = s.acc ∧
  t.bitcnt = s.bitcnt ∧ t.ebits = s.ebits ∧ t.rcnt = s.rcnt ∧ t.ctxState = s.ctxState ∧ t.counter = s.counter ∧
  t.adcOn = s.adcOn ∧ t.hctxOpen = s.hctxOpen

/-- Nothing outside the block has changed but the model's record of the host's last answer: the hash context, the ADC
and its draws, the schedule, and the port transactions. -/
def SameOutside (s t : State) : Prop :=
  t.htag = s.htag ∧ t.hmsg = s.hmsg ∧ t.adc = s.adc ∧ t.draws = s.draws ∧ t.agenda = s.agenda ∧ t.ports = s.ports

/-- The states that a run from reset reaches, whatever the environment schedules and whenever it does (R62). -/
inductive Reachable : State → Prop where
  | reset : Reachable State.reset
  | schedule {s : State} (agenda : List Event) : Reachable s → Reachable { s with agenda := agenda }
  | step {s t : State} : Reachable s → step s = .next t → Reachable t

/-- `k` steps, stopping at the first fault or refusal. -/
def run : Nat → State → Result
  | 0, s => .next s
  | k + 1, s =>
    match step s with
    | .next t => run k t
    | .fault r => .fault r
    | .refused r => .refused r

end Sys2Proof.Machine
end

