-- ==== Sys2Proof/Certificates/Slice0/Obligations.lean ====
section
/-! DEFINITION. The statements for the provers, from the numbered rules of spec/. A next state is written as the state
before with the fields the rule changes, so that each result says its frame as well: every field not named, and with it
every register, flag, the hash context, the schedule and the port transactions, is as before. The fields `bus` (log 13), `draws` (log 5),
`ports` (log 12) and `agenda` (log 1) are the model's own, and `adc` is the peripheral (log 9). -/

open Sys2Proof Sys2Proof.Machine

/-! ### Decoding and encoding -/

/-- R72, R73, R79, R82: the decoder reads an instruction from a bus access or a phase code exactly when the instruction is
well-formed and that access or code is its encoding; so no bit of an encoding is dropped and no encoding has two meanings. -/
def Obligations.DecodeReadsExactlyEncodings : Prop :=
  ∀ (f : Fetched) (i : Instr), decode f = .ok i ↔ (i.wellFormed = true ∧ encode i = f)

/-- R74: each 32-bit command word is exactly one of the four, decided by comparing the whole word. -/
def Obligations.CommandWordsDecodeByWholeWord : Prop :=
  decode (.access ⟨0x00, 4, .write 0x00000000#32⟩) = .ok .nop ∧
  decode (.access ⟨0x00, 4, .write 0x00000001#32⟩) = .ok .seedInit ∧
  decode (.access ⟨0x00, 4, .write 0x00000002#32⟩) = .ok .sampleWord ∧
  ∀ c : Word, c ≠ 0x00000000#32 → c ≠ 0x00000001#32 → c ≠ 0x00000002#32 →
    decode (.access ⟨0x00, 4, .write c⟩) = .ok (.illegal c)

/-- A few words written out from the encodings of R72, R79 and R82. That a 32-bit table word is a write to `CMD`, and a table
byte a 4-bit phase code, is the model's choice (DESIGN CHOICE, log 19). -/
def Obligations.WordsWrittenOutDecode : Prop :=
  decodeTableWord 32 0x00000001 = some .seedInit ∧ decodeTableWord 32 0x00000101 = some (.illegal 0x00000101#32) ∧
  decodeTableWord 8 0x04 = some .sPoll ∧ decodeTableWord 8 0x0C = some .hUpdate ∧
  decode (.access ⟨0x08, 4, .write 0x00010002#32⟩) = .ok (.wr32Config 0x00010002#32) ∧
  decode (.access ⟨0x0C, 4, .read⟩) = .ok (.rd32 0x0C#8) ∧ decode (.access ⟨0x06, 4, .read⟩) = .error .busError

/-! ### A step runs the decoded instruction -/

/-- R33, R50, R62: a scheduled access that decodes to an instruction runs it; a sequencer step, scheduled or not, runs the
micro-operation of the phase's code. The scheduled move is taken off the schedule first. -/
def Obligations.StepRunsDecodedInstruction : Prop :=
  (∀ (s : State) (a : Access) (rest : List Event) (i : Instr), s.agenda = .access a :: rest → decode (.access a) = .ok i →
    step s = exec i { s with agenda := rest }) ∧
  (∀ (s : State) (rest : List Event) (i : Instr), s.agenda = .sequencer :: rest → decode (.phase s.phase.code) = .ok i →
    step s = exec i { s with agenda := rest }) ∧
  (∀ (s : State) (i : Instr), s.agenda = [] → decode (.phase s.phase.code) = .ok i → step s = exec i s)

/-- R51, R52, R53: what a step does with a scheduled access that is no instruction; the bus answer to an ignored write is
DEDUCED (log 13). -/
def Obligations.StepAnswersOtherAccesses : Prop :=
  ∀ (s : State) (a : Access) (rest : List Event), s.agenda = .access a :: rest →
    ((a.off < 0 ∨ 256 ≤ a.off) → step s = .next { s with agenda := rest }) ∧
    (0 ≤ a.off → a.off < 256 → (a.size ≠ 4 ∨ a.off % 4 ≠ 0) → step s = .next { s with agenda := rest, bus := .error }) ∧
    (∀ v : Word, 0 ≤ a.off → a.off < 256 → a.size = 4 → a.off % 4 = 0 → a.op = .write v → a.off ≠ 0x00 → a.off ≠ 0x08 →
      step s = .next { s with agenda := rest, bus := .written })

/-- R83, with the schedule the model chose between two reads (log 18): `WAIT_IDLE` reads `STATUS`, and while bit 0 reads 1
it lets the sequencer make one step and reads again. -/
def Obligations.WaitIdlePollsBusy : Prop :=
  ∀ (s : State) (rest : List Event), s.agenda = .waitIdle :: rest →
    (s.busy = true → step s =
      .next { s with agenda := .sequencer :: .waitIdle :: rest, bus := .data (statusWord s) }) ∧
    (s.busy = false → step s = .next { s with agenda := rest, bus := .data (statusWord s) })

/-! ### Reset -/

/-- R47: the value of every piece of state after reset, for the pieces to which the rule gives one. -/
def Obligations.ResetLeavesSpecifiedValues : Prop :=
  statusWord State.reset = 0x00000000#32 ∧ configWord State.reset = 0x00000000#32 ∧
  State.reset.word = 0x00000000#32 ∧ progressWord State.reset = 0x00000000#32 ∧
  State.reset.busy = false ∧ State.reset.done = false ∧ State.reset.init = false ∧ State.reset.rej = false ∧
  State.reset.err = .ok ∧ State.reset.phase = .idle ∧ State.reset.op = .none ∧ State.reset.limit = 0 ∧
  State.reset.limitEn = false ∧ State.reset.acc = 0x00000000#32 ∧ State.reset.bitcnt = 0 ∧ State.reset.ebits = 0 ∧
  State.reset.rcnt = 0 ∧ State.reset.adcOn = false ∧ State.reset.hctxOpen = false

/-- R165, R166: a reset between any two steps sets every register to its reset value and issues no port transaction; the
hash engine keeps what it has, and so does the ADC unless the platform resets it too (R168). That a reset says whether it
does is the model's choice (DESIGN CHOICE, log 10). -/
def Obligations.ResetEventSetsRegisters : Prop :=
  ∀ (s : State) (adcToo : Bool) (rest : List Event), s.agenda = .reset adcToo :: rest →
    ∃ t, step s = .next t ∧ statusWord t = 0x00000000#32 ∧ configWord t = 0x00000000#32 ∧ t.word = 0x00000000#32 ∧
      progressWord t = 0x00000000#32 ∧ t.phase = .idle ∧ t.op = .none ∧ t.acc = 0x00000000#32 ∧ t.bitcnt = 0 ∧
      t.ebits = 0 ∧ t.rcnt = 0 ∧ t.adcOn = false ∧ t.hctxOpen = false ∧ t.ports = s.ports ∧ t.htag = s.htag ∧
      t.hmsg = s.hmsg ∧ (adcToo = false → t.adc = s.adc)

/-! ### Host commands -/

/-- R126: an accepted `NOP`. -/
def Obligations.NopCompletesAtOnce : Prop :=
  ∀ s : State, s.busy = false → exec .nop s =
    .next { s with rej := false, err := .ok, done := true, op := .none, phase := .idle, bus := .written }

/-- R127: an accepted `SEED_INIT`, before the context is written and after. -/
def Obligations.SeedInitStartsOrRefuses : Prop :=
  (∀ s : State, s.busy = false → s.init = false → exec .seedInit s =
    .next { s with rej := false, err := .ok, done := false, op := .seed, busy := true, phase := .hInit, bus := .written }) ∧
  (∀ s : State, s.busy = false → s.init = true → exec .seedInit s =
    .next { s with rej := false, err := .reentry, done := true, op := .seed, phase := .idle, bus := .written })

/-- R128, R86: an accepted `SAMPLE_WORD`, whether `INIT` is 0 or 1. -/
def Obligations.SampleWordStartsSampler : Prop :=
  ∀ s : State, s.busy = false → exec .sampleWord s =
    .next { s with rej := false, err := .ok, done := false, op := .sample, busy := true, acc := 0x00000000#32, bitcnt := 0, phase := .sStart, bus := .written }

/-- R129: an accepted illegal command. -/
def Obligations.IllegalCommandReportsError : Prop :=
  ∀ (w : Word) (s : State), s.busy = false → exec (.illegal w) s =
    .next { s with rej := false, err := .illegalCmd, done := true, op := .none, phase := .idle, bus := .written }

/-- R125, R130, R145, R173: a write to `CMD` or `CONFIG` while `BUSY`=1 sets `REJ` and does nothing else; that the bus answers it
like any other write is DEDUCED (log 13). -/
def Obligations.WritesWhileBusyOnlySetRej : Prop :=
  ∀ s : State, s.busy = true →
    exec .nop s = .next { s with rej := true, bus := .written } ∧
    exec .seedInit s = .next { s with rej := true, bus := .written } ∧
    exec .sampleWord s = .next { s with rej := true, bus := .written } ∧
    (∀ w : Word, exec (.illegal w) s = .next { s with rej := true, bus := .written }) ∧
    (∀ v : Word, exec (.wr32Config v) s = .next { s with rej := true, bus := .written })

/-- The worked `STATUS` values of R126, R127 and R129: what `STATUS` reads after a command that completes at once. -/
def Obligations.StatusAfterImmediateCommands : Prop :=
  ∀ s : State, s.busy = false →
    (∃ t, exec .nop s = .next t ∧ statusWord t = if s.init then 0x00000006#32 else 0x00000002#32) ∧
    (s.init = true → ∃ t, exec .seedInit s = .next t ∧ statusWord t = 0x00001026#32) ∧
    (∀ w : Word, ∃ t, exec (.illegal w) s = .next t ∧
      statusWord t = if s.init then 0x00000016#32 else 0x00000012#32)

/-! ### Register accesses -/

/-- R130: an accepted `CONFIG` write; it clears no flag. -/
def Obligations.ConfigWriteSetsLimit : Prop :=
  ∀ (v : Word) (s : State), s.busy = false → exec (.wr32Config v) s =
    .next { s with limit := v.extractLsb' 0 16, limitEn := v.getLsbD 16, bus := .written }

/-- R75: a write sets the two fields, and what is written reads back with bits 31:17 zero. -/
def Obligations.ConfigReadsBackLowBits : Prop :=
  ∀ (v : Word) (s : State), s.busy = false →
    ∃ t, exec (.wr32Config v) s = .next t ∧ t.limit = v.extractLsb' 0 16 ∧ t.limitEn = v.getLsbD 16 ∧
      hostSees t 0x08#8 = some (.data (v &&& 0x0001FFFF#32)) ∧
      hostSees t 0x08#8 = some (.data ((bitWord t.limitEn <<< 16) ||| t.limit.setWidth 32))

/-- R76: the fields of `STATUS`, and its reserved bits. -/
def Obligations.StatusFieldsReadInPlace : Prop :=
  ∀ s : State, ∃ w : Word, exec (.rd32 0x04#8) s = .next { s with bus := .data w } ∧
    w.getLsbD 0 = s.busy ∧ w.getLsbD 1 = s.done ∧ w.getLsbD 2 = s.init ∧ w.getLsbD 3 = s.rej ∧
    w.extractLsb' 4 4 = s.err.code ∧ w.extractLsb' 8 4 = s.phase.code ∧ w.extractLsb' 12 2 = s.op.code ∧
    w.extractLsb' 14 18 = 0

/-- R77: the fields of `PROGRESS`, and its other bits. -/
def Obligations.ProgressFieldsReadInPlace : Prop :=
  ∀ s : State, ∃ w : Word, exec (.rd32 0x10#8) s = .next { s with bus := .data w } ∧
    w.extractLsb' 0 6 = s.bitcnt ∧ w.extractLsb' 6 10 = 0 ∧ w.extractLsb' 16 9 = s.ebits ∧ w.extractLsb' 25 7 = 0

/-- R131: what each read gives, for the registers that are always readable; nothing but the host's answer changes. -/
def Obligations.ReadsOfPlainRegisters : Prop :=
  ∀ s : State,
    exec (.rd32 0x00#8) s = .next { s with bus := .data 0x00000000#32 } ∧
    exec (.rd32 0x08#8) s =
      .next { s with bus := .data ((bitWord s.limitEn <<< 16) ||| s.limit.setWidth 32) } ∧
    exec (.rd32 0x0C#8) s = .next { s with bus := .data s.word } ∧
    (∀ off : BitVec 8, 0x1C ≤ off.toNat → off.toNat < 0x40 → off.toNat % 4 = 0 →
      exec (.rd32 off) s = .next { s with bus := .data 0x00000000#32 })

/-- R39, R40: the context's registers once `INIT`=1, and the words beyond `STATE_BYTES` at any time. -/
def Obligations.ReadsOfContext : Prop :=
  ∀ s : State,
    (s.init = true → exec (.rd32 0x14#8) s = .next { s with bus := .data (s.counter.extractLsb' 0 32) } ∧
      exec (.rd32 0x18#8) s = .next { s with bus := .data (s.counter.extractLsb' 32 32) }) ∧
    (∀ k : Nat, k < 48 → (s.init = true ∨ Config.stateBytes ≤ 4 * k) →
      ∃ w : Word, exec (.rd32 (BitVec.ofNat 8 (0x40 + 4 * k))) s = .next { s with bus := .data w } ∧
        ∀ j : Nat, j < 4 → w.extractLsb' (8 * j) 8 =
          if 4 * k + j < Config.stateBytes then s.ctxState.getD (4 * k + j) 0 else 0)

/-- R149: a read of the context while `INIT`=0 is the host program's fault. -/
def Obligations.ContextReadBeforeInitFaults : Prop :=
  ∀ s : State, s.init = false →
    exec (.rd32 0x14#8) s = .fault (.contextReadBeforeInit 0x14#8) ∧
    exec (.rd32 0x18#8) s = .fault (.contextReadBeforeInit 0x18#8) ∧
    ∀ k : Nat, k < 48 → 4 * k < Config.stateBytes →
      exec (.rd32 (BitVec.ofNat 8 (0x40 + 4 * k))) s =
        .fault (.contextReadBeforeInit (BitVec.ofNat 8 (0x40 + 4 * k)))

/-- R52, R144: a read at a misaligned offset gets the error answer and changes no state. -/
def Obligations.MisalignedReadGetsBusError : Prop :=
  ∀ (s : State) (off : BitVec 8), off.toNat % 4 ≠ 0 → exec (.rd32 off) s = .next { s with bus := .error }

/-- R54: no read changes the block or anything outside it, the host's answer apart, and a repeated read gives the same. -/
def Obligations.ReadsHaveNoSideEffect : Prop :=
  ∀ (s t : State) (a : Access), a.op = .read → hostAccess a s = .next t →
    SameBlock s t ∧ SameOutside s t ∧ (∀ off : BitVec 8, hostSees t off = hostSees s off)

/-- R61: once a state meets the invariants, `COUNTER_LO` and `COUNTER_HI` read as the complements of `STATE_W[0]` and
`STATE_W[1]` whenever `INIT`=1. -/
def Obligations.CounterReadsComplementState : Prop :=
  ∀ s : State, Inv s → s.init = true →
    ∃ w0 w1 : Word, hostSees s 0x40#8 = some (.data w0) ∧ hostSees s 0x44#8 = some (.data w1) ∧
      hostSees s 0x14#8 = some (.data (~~~ w0)) ∧ hostSees s 0x18#8 = some (.data (~~~ w1))

/-- R35, R38, R42, R43, R58: no register the host reads shows `ACC`, `RCNT`, `ADC_ON`, `HCTX_OPEN` or the hash context; so a
seed word is never visible while it is being built or fed. -/
def Obligations.InternalRegistersStayHidden : Prop :=
  ∀ (s : State) (acc : Word) (rcnt : BitVec 16) (adcOn hctxOpen : Bool) (htag : Tag) (hmsg : List Byte) (off : BitVec 8),
    hostSees { s with acc := acc, rcnt := rcnt, adcOn := adcOn, hctxOpen := hctxOpen, htag := htag, hmsg := hmsg } off =
      hostSees s off

/-! ### The sampler's micro-operations -/

/-- R33, with the reading of log 3: in `IDLE` the sequencer does nothing. -/
def Obligations.IdleKeepsAllState : Prop := ∀ s : State, exec .idle s = .next s

/-- R87: `S_START` issues one `AdcStart`, clears `RCNT` and sets `ADC_ON`. -/
def Obligations.SStartClearsRetryCount : Prop :=
  ∀ s : State, s.adc = .stopped → exec .sStart s =
    .next { s with adc := .started, adcOn := true, rcnt := 0, phase := .sSettle, ports := .adcStart :: s.ports }

/-- R93: `S_R_START` issues one `AdcStart` and keeps `RCNT`. -/
def Obligations.SRStartKeepsRetryCount : Prop :=
  ∀ s : State, s.adc = .stopped → exec .sRStart s =
    .next { s with adc := .started, adcOn := true, phase := .sRSettle, ports := .adcStart :: s.ports }

/-- R88, R92, R94: the three delays that only advance the phase. -/
def Obligations.WaitsOnlyAdvancePhase : Prop :=
  ∀ s : State, exec .sSettle s = .next { s with phase := .sPoll } ∧
    exec .sRWait s = .next { s with phase := .sRStart } ∧ exec .sRSettle s = .next { s with phase := .sPoll }

/-- R91, R97: the two stops. -/
def Obligations.StopsClearAdcOn : Prop :=
  ∀ s : State, s.adc = .started →
    exec .sRStop s = .next { s with adc := .stopped, adcOn := false, phase := .sRWait, ports := .adcStop :: s.ports } ∧
    exec .sStop s = .next { s with adc := .stopped, adcOn := false, phase := .sDecorr, ports := .adcStop :: s.ports }

/-- R89: one poll, and what follows for each answer the ADC may give; the answer is a free value (log 5). -/
def Obligations.SPollBranchesOnAnswer : Prop :=
  ∀ s : State, s.adc = .started → exec .sPoll s =
    .next (match Config.adcPollAnswer s.draws with
      | .success => { s with
          draws := s.draws + 1, ports := .adcPoll Config.tPoll .success :: s.ports, phase := .sRead }
      | .timeout =>
        if s.limitEn = true ∧ s.rcnt = s.limit then { s with
          draws := s.draws + 1, ports := .adcPoll Config.tPoll .timeout :: s.ports, phase := .fail }
        else { s with
          draws := s.draws + 1, ports := .adcPoll Config.tPoll .timeout :: s.ports
          rcnt := BitVec.ofNat 16 (min 0xFFFF (s.rcnt.toNat + 1)), phase := .sRStop })

/-- R95, R96: one read; the two low bits of whatever value the ADC returns go into the accumulator, of which the two high
bits are lost. The value is a free value that `draws` selects (DESIGN CHOICE, log 5), and `BITCNT` + 2 is taken modulo 64, which
only unreachable states show (DEDUCED, log 20). -/
def Obligations.SReadPacksTwoBits : Prop :=
  ∀ s : State, s.adc = .started → exec .sRead s =
    .next { s with
      draws := s.draws + 1, ports := .adcRead (Config.adcRawValue s.draws) :: s.ports
      acc := s.acc.extractLsb' 0 30 ++ (Config.adcRawValue s.draws).extractLsb' 0 2
      bitcnt := s.bitcnt + 2#6, phase := .sStop }

/-- R98: the loop test, and where a complete word goes; the last clause has `OP`=`NONE` too, by the rule's `else` (log 20). -/
def Obligations.SDecorrEndsOrContinuesWord : Prop :=
  ∀ s : State,
    (s.bitcnt.toNat < 32 → exec .sDecorr s = .next { s with phase := .sStart }) ∧
    (32 ≤ s.bitcnt.toNat → s.op = .sample → exec .sDecorr s =
      .next { s with word := s.acc, err := .ok, done := true, busy := false, phase := .idle }) ∧
    (32 ≤ s.bitcnt.toNat → s.op ≠ .sample → exec .sDecorr s = .next { s with phase := .hUpdate })

/-- R99: the typed failure. -/
def Obligations.FailReportsHwUnavailable : Prop :=
  ∀ s : State, s.adc = .started → exec .fail s =
    .next { s with
      adc := .stopped, ports := .adcStop :: s.ports, adcOn := false, hctxOpen := false, err := .hwUnavailable,
      done := true, busy := false, phase := .idle }

/-- I9 of spec/93_implementation_defined.md: where the ADC's contract gives no answer the sequencer is stuck, by a fault that
names the transaction. -/
def Obligations.UnansweredAdcTransactionFaults : Prop :=
  ∀ s : State,
    (s.adc = .started → exec .sStart s = .fault (.adcUnanswered .start) ∧
      exec .sRStart s = .fault (.adcUnanswered .start)) ∧
    (s.adc = .stopped → exec .sPoll s = .fault (.adcUnanswered .poll) ∧
      exec .sRead s = .fault (.adcUnanswered .read) ∧ exec .sRStop s = .fault (.adcUnanswered .stop) ∧
      exec .sStop s = .fault (.adcUnanswered .stop) ∧ exec .fail s = .fault (.adcUnanswered .stop))

/-! ### The feeder's micro-operations -/

/-- R111, R86: `H_INIT`. -/
def Obligations.HInitOpensContext : Prop :=
  ∀ s : State, exec .hInit s =
    .next { s with
      htag := Config.ctxTag, hmsg := [], ports := .hashInit Config.ctxTag none :: s.ports, hctxOpen := true
      ebits := 0, acc := 0x00000000#32, bitcnt := 0, phase := .sStart }

/-- R112, R59: `H_UPDATE` feeds the word least significant byte first, adds 32 and tests the loop. `EBITS` + 32 is taken modulo
512, so an `EBITS` of 480 and more, which no run reaches, goes to the next word (DEDUCED, log 20). -/
def Obligations.HUpdateFeedsWord : Prop :=
  ∀ s : State, ∃ bytes : List Byte,
    bytes = [s.acc.extractLsb' 0 8, s.acc.extractLsb' 8 8, s.acc.extractLsb' 16 8, s.acc.extractLsb' 24 8] ∧
    ((s.ebits + 32#9).toNat < 256 → exec .hUpdate s =
      .next { s with
        hmsg := s.hmsg ++ bytes, ports := .hashUpdate bytes :: s.ports, ebits := s.ebits + 32#9
        acc := 0x00000000#32, bitcnt := 0, phase := .sStart }) ∧
    (256 ≤ (s.ebits + 32#9).toNat → exec .hUpdate s =
      .next { s with
        hmsg := s.hmsg ++ bytes, ports := .hashUpdate bytes :: s.ports, ebits := s.ebits + 32#9, phase := .hFinal })

/-- R113, R58: `H_FINAL` writes `STATE` with the hash of the tag and the bytes fed; `HMSG` keeps those bytes (log 14). -/
def Obligations.HFinalWritesState : Prop :=
  ∀ s : State, ∃ d : List Byte, d = Config.hashFn s.htag none s.hmsg Config.stateBytes ∧ d.length = Config.stateBytes ∧
    exec .hFinal s =
      .next { s with
        ctxState := d, hctxOpen := false, phase := .derive, ports := .hashFinal Config.stateBytes d :: s.ports }

/-- R114: `DERIVE` writes the counter and `INIT` in one step and ends the operation. -/
def Obligations.DeriveWritesCounterAndInit : Prop :=
  ∀ s : State, exec .derive s =
    .next { s with
      counter := ~~~ le64 s.ctxState, init := true, acc := 0x00000000#32, err := .ok, done := true, busy := false
      phase := .idle }

/-- R115: the counter function as a number, on any eight bytes. -/
def Obligations.CounterIsComplementOfLittleEndian : Prop :=
  ∀ b : List Byte, 8 ≤ b.length →
    (ctr b).toNat = (2 ^ 64 - 1) - ∑ i ∈ Finset.range 8, (b.getD i 0).toNat * 2 ^ (8 * i)

/-! ### Words and seeds -/

/-- R101, R102: sixteen packs of any sixteen raw values give the same word from any accumulator, with sample j at bits
31−2j : 30−2j, so the first sample is the most significant. -/
def Obligations.WordClosedForm : Prop :=
  ∀ (raws : List (BitVec Config.adcWidth)) (a : Word), raws.length = 16 →
    raws.foldl pack a = raws.foldl pack 0 ∧
    (raws.foldl pack a).toNat =
      ∑ j ∈ Finset.range 16, ((raws.getD j 0).toNat % 4) * 2 ^ (30 - 2 * j)

/-- R103, R104, R100: with the bound off and the ADC timing out, the sequencer goes once round the retry cycle and stands at
`S_POLL` again with the same word, the same count of samples and the same operation, one `AdcStop` and one `AdcStart` further;
with a `Success` it leaves to `S_READ`. The answer is a free value (log 5), and with the schedule empty every step is the
sequencer's (DESIGN CHOICE, log 1). -/
def Obligations.UnboundedRetryCycles : Prop :=
  ∀ s : State, s.phase = .sPoll → s.adc = .started → s.agenda = [] → s.limitEn = false →
    match Config.adcPollAnswer s.draws with
    | .timeout => ∃ t, run 5 s = .next t ∧ t.phase = .sPoll ∧ t.adc = .started ∧ t.agenda = [] ∧ t.limitEn = false ∧
        t.busy = s.busy ∧ t.acc = s.acc ∧ t.bitcnt = s.bitcnt ∧ t.op = s.op ∧ t.word = s.word ∧
        t.ports = .adcStart :: .adcStop :: .adcPoll Config.tPoll .timeout :: s.ports
    | .success => ∃ t, run 1 s = .next t ∧ t.phase = .sRead ∧ t.acc = s.acc ∧ t.bitcnt = s.bitcnt ∧
        t.ports = .adcPoll Config.tPoll .success :: s.ports

/-- R117: whatever was scheduled and however often conversions timed out, the context that `DERIVE` completes is the hash of
the eight words packed from the last 128 values read, and the counter the complement of its first eight bytes. -/
def Obligations.SeedContextClosedForm : Prop :=
  ∀ s : State, Inv s → DataInv s → s.phase = .derive →
    ∃ t, sequencerStep s = .next t ∧ t.init = true ∧ t.done = true ∧ t.busy = false ∧ t.err = .ok ∧
      t.ctxState = Config.hashFn Config.ctxTag none (seedMessage 8 (reads s.ports)) Config.stateBytes ∧
      t.counter = ctr t.ctxState

/-- R118: two seeds whose last 128 reads pack to the same eight words give the same context. -/
def Obligations.SeedIsDeterministic : Prop :=
  ∀ s₁ s₂ t₁ t₂ : State, Inv s₁ → DataInv s₁ → Inv s₂ → DataInv s₂ → s₁.phase = .derive → s₂.phase = .derive →
    seedMessage 8 (reads s₁.ports) = seedMessage 8 (reads s₂.ports) →
    sequencerStep s₁ = .next t₁ → sequencerStep s₂ = .next t₂ → t₁.ctxState = t₂.ctxState ∧ t₁.counter = t₂.counter

/-! ### The whole machine -/

/-- R48, R42, R165: the invariants hold right after reset. -/
def Obligations.InvariantsHoldAtReset : Prop := Inv State.reset ∧ DataInv State.reset ∧ AdcInStep State.reset

/-- R48: every step of every agent keeps the invariants. -/
def Obligations.StepKeepsInvariants : Prop := ∀ s t : State, Inv s → step s = .next t → Inv t

/-- R101, R102, R117: every step keeps what the accumulator, the hash message and `STATE` are made of. -/
def Obligations.StepKeepsDataInvariants : Prop :=
  ∀ s t : State, Inv s → DataInv s → step s = .next t → DataInv t

/-- R48 as it stands: its list holds in every state a run from reset reaches, whatever the environment schedules. -/
def Obligations.ReachableStatesMeetInvariants : Prop := ∀ s : State, Reachable s → Invariants48 s

/-- R151: while the ADC is as `ADC_ON` says, the sequencer is never stuck, and its step leaves both so. -/
def Obligations.SequencerNeverStuck : Prop :=
  ∀ s : State, Inv s → AdcInStep s → ∃ t, sequencerStep s = .next t ∧ Inv t ∧ AdcInStep t

/-- R56, R62: a step issues at most one port transaction, `AdcStart` only with `ADC_ON`=0, `AdcPoll`, `AdcRead` and `AdcStop`
only with `ADC_ON`=1, and `AdcRead` only directly after an `AdcPoll` answered `Success`. -/
def Obligations.PortTransactionsAreDisciplined : Prop :=
  ∀ s t : State, Inv s → step s = .next t →
    t.ports = s.ports ∨
    ∃ x : PortTx, t.ports = x :: s.ports ∧ s.busy = true ∧
      (x = .adcStart → s.adcOn = false ∧ t.adcOn = true) ∧
      (x = .adcStop → s.adcOn = true ∧ t.adcOn = false) ∧
      (∀ d r, x = .adcPoll d r → s.adcOn = true ∧ d = Config.tPoll) ∧
      (∀ v, x = .adcRead v → s.adcOn = true ∧ s.ports.head? = some (.adcPoll Config.tPoll .success))

/-- R31: `WORD` changes only by the word-complete step of a sample, which writes the accumulator, and by reset. -/
def Obligations.WordChangesOnlyBySampleCompletion : Prop :=
  ∀ s t : State, Inv s → step s = .next t → t.word ≠ s.word →
    (s.phase = .sDecorr ∧ s.op = .sample ∧ s.bitcnt.toNat = 32 ∧ t.word = s.acc ∧ t.done = true) ∨
    (∃ r rest, s.agenda = .reset r :: rest ∧ t.word = 0x00000000#32)

/-- R26, R39, R40: in every state, `STATE` changes only by `H_FINAL`, `COUNTER` and `INIT` only by `DERIVE`, or by reset. -/
def Obligations.ContextWrittenOnlyByFeeder : Prop :=
  ∀ s t : State, step s = .next t → (∀ r rest, s.agenda ≠ .reset r :: rest) →
    (t.ctxState ≠ s.ctxState → s.phase = .hFinal) ∧ (t.counter ≠ s.counter → s.phase = .derive) ∧
    (t.init ≠ s.init → s.phase = .derive ∧ t.init = true)

/-- R41, R26: once the context is written nothing but reset changes it. -/
def Obligations.ContextImmutableOnceWritten : Prop :=
  ∀ s t : State, Inv s → s.init = true → step s = .next t → (∀ r rest, s.agenda ≠ .reset r :: rest) →
    t.init = true ∧ t.ctxState = s.ctxState ∧ t.counter = s.counter ∧ t.counter = ctr t.ctxState

/-- R133, R145: while an operation runs, no host access changes anything of the machine but `REJ` and the host's answer. -/
def Obligations.NoAccessDisturbsRunningOperation : Prop :=
  ∀ (s t : State) (a : Access), s.busy = true → hostAccess a s = .next t → t = { s with rej := t.rej, bus := t.bus }

/-- R27: `REJ` rises only by a write to `CMD` or `CONFIG` while `BUSY`=1, and falls only by an accepted command or reset. -/
def Obligations.RejLifetime : Prop :=
  ∀ s t : State, step s = .next t →
    (s.rej = false → t.rej = true → s.busy = true ∧
      ∃ a rest v, s.agenda = .access a :: rest ∧ a.op = .write v ∧ (a.off = 0x00 ∨ a.off = 0x08)) ∧
    (s.rej = true → t.rej = false →
      (s.busy = false ∧ ∃ a rest v, s.agenda = .access a :: rest ∧ a.op = .write v ∧ a.off = 0x00) ∨
      ∃ r rest, s.agenda = .reset r :: rest)

/-- R146: `HW_UNAVAILABLE` is written only by `FAIL`, with the bound in force and the count at the bound; so never while
`LIMIT_EN`=0. -/
def Obligations.HwUnavailableOnlyAtBound : Prop :=
  ∀ s t : State, Inv s → step s = .next t → s.err ≠ .hwUnavailable → t.err = .hwUnavailable →
    s.phase = .fail ∧ s.limitEn = true ∧ s.rcnt = s.limit ∧ t.word = s.word ∧ t.ctxState = s.ctxState ∧
      t.counter = s.counter ∧ t.init = s.init ∧ t.adcOn = false ∧ t.hctxOpen = false

/-- R30, R130: `CONFIG` is constant while an operation runs, reset apart. -/
def Obligations.ConfigConstantWhileBusy : Prop :=
  ∀ s t : State, s.busy = true → step s = .next t → (∀ r rest, s.agenda ≠ .reset r :: rest) →
    t.limit = s.limit ∧ t.limitEn = s.limitEn

/-- R25, R132, R182: an operation that runs ends, reset apart, only by a step that clears `BUSY`, sets `DONE` and goes to
`IDLE` with the ADC stopped and no hash context open. -/
def Obligations.OperationEndsByFinish : Prop :=
  ∀ s t : State, Inv s → s.busy = true → step s = .next t → t.busy = false → (∀ r rest, s.agenda ≠ .reset r :: rest) →
    s.done = false ∧ t.done = true ∧ t.phase = .idle ∧ t.adcOn = false ∧ t.hctxOpen = false ∧
    (t.err = .ok ∨ t.err = .hwUnavailable)

/-- R181 for `SAMPLE_WORD`: with the bound on, whatever the ADC answers, the operation ends within 16·(6 + 5·LIMIT) steps. With
the schedule empty every step is the sequencer's (DESIGN CHOICE, log 1). -/
def Obligations.BoundedSampleTerminates : Prop :=
  ∀ s : State, Inv s → AdcInStep s → s.agenda = [] → s.limitEn = true → s.op = .sample → s.phase = .sStart →
    s.bitcnt = 0 →
    ∃ n t, n ≤ 16 * (6 + 5 * s.limit.toNat) ∧ run n s = .next t ∧ t.phase = .idle ∧ t.busy = false ∧ t.done = true ∧
      (t.err = .ok ∨ t.err = .hwUnavailable)

/-- R181 for `SEED_INIT`: within 11 + 128·(6 + 5·LIMIT) steps, and with `OK` exactly when the context has been written. With
the schedule empty every step is the sequencer's (DESIGN CHOICE, log 1). -/
def Obligations.BoundedSeedTerminates : Prop :=
  ∀ s : State, Inv s → AdcInStep s → s.agenda = [] → s.limitEn = true → s.phase = .hInit →
    ∃ n t, n ≤ 11 + 128 * (6 + 5 * s.limit.toNat) ∧ run n s = .next t ∧ t.phase = .idle ∧ t.busy = false ∧
      t.done = true ∧ ((t.err = .ok ∧ t.init = true) ∨ (t.err = .hwUnavailable ∧ t.init = false))
end

