-- ==== Sys2Proof/Laws/Decode.lean ====
section
/-! SUPPORT. The decoder and the phase codes: what each word selects, and that codes and phases agree (R72–R74, R79). -/

namespace Sys2Proof

/-- Decoding a command word is total, and the word decides (R74). -/
theorem decodeCommand_cases (c : Word) :
    (c = 0x00000000#32 ∧ decodeCommand c = .nop) ∨ (c = 0x00000001#32 ∧ decodeCommand c = .seedInit) ∨
    (c = 0x00000002#32 ∧ decodeCommand c = .sampleWord) ∨
    ((Instr.illegal c).wellFormed = true ∧ decodeCommand c = .illegal c) := by
  unfold decodeCommand
  split
  · exact .inl ⟨‹_›, rfl⟩
  · split
    · exact .inr (.inl ⟨‹_›, rfl⟩)
    · split
      · exact .inr (.inr (.inl ⟨‹_›, rfl⟩))
      · exact .inr (.inr (.inr ⟨by simp [Instr.wellFormed, *], rfl⟩))

theorem decodeCommand_illegal {w : Word} (h : (Instr.illegal w).wellFormed = true) :
    decodeCommand w = .illegal w := by
  rcases decodeCommand_cases w with ⟨rfl, -⟩ | ⟨rfl, -⟩ | ⟨rfl, -⟩ | ⟨-, h'⟩
  · simp [Instr.wellFormed] at h
  · simp [Instr.wellFormed] at h
  · simp [Instr.wellFormed] at h
  · exact h'

/-- A write of a command word to `CMD` is decoded as that word (R22, R71). -/
theorem decode_commandWrite (c : Word) : decode (commandWrite c) = .ok (decodeCommand c) := rfl

/-- The alignment of an 8-bit offset is that of its number. -/
theorem offset_aligned (off : BitVec 8) : (off.extractLsb' 0 2 == 0#2) = decide (off.toNat % 4 = 0) := by
  have h : (off.extractLsb' 0 2).toNat = off.toNat % 4 := by simp [BitVec.extractLsb'_toNat]
  rw [Bool.eq_iff_iff, beq_iff_eq, decide_eq_true_iff, BitVec.toNat_eq, h]
  simp

/-- What an access decodes to, in the order of R153: outside the window, a bus error, a read, a write. -/
theorem decodeAccess_cases (a : Access) :
    (a.inWindow = false ∧ decodeAccess a = .error .notSelected) ∨
    (a.inWindow = true ∧ a.answerable = false ∧ decodeAccess a = .error .busError) ∨
    (a.inWindow = true ∧ a.answerable = true ∧
      ((a.op = .read ∧ decodeAccess a = .ok (.rd32 (BitVec.ofInt 8 a.off))) ∨
       (∃ v, a.op = .write v ∧ a.off = 0x00 ∧ decodeAccess a = .ok (decodeCommand v)) ∨
       (∃ v, a.op = .write v ∧ a.off = 0x08 ∧ decodeAccess a = .ok (.wr32Config v)) ∨
       (∃ v, a.op = .write v ∧ a.off ≠ 0x00 ∧ a.off ≠ 0x08 ∧ decodeAccess a = .error .writeIgnored))) := by
  unfold decodeAccess
  cases hw : a.inWindow
  · simp
  · cases ha : a.answerable
    · simp
    · cases ho : a.op with
      | read => simp
      | write v =>
        by_cases h0 : a.off = 0
        · simp [h0]
        · by_cases h8 : a.off = 8 <;> simp [h0, h8]

end Sys2Proof

namespace Sys2Proof.Machine

@[simp] theorem ofCode_code (p : Phase) : Phase.ofCode p.code = p := by cases p <;> rfl

theorem code_ofCode (c : BitVec 4) : (Phase.ofCode c).code = c := by revert c; decide

/-- The micro-operation of a phase. -/
theorem decodePhase_code (p : Phase) : decodePhase p.code =
    match p with
    | .idle => .idle | .hInit => .hInit | .sStart => .sStart | .sSettle => .sSettle | .sPoll => .sPoll
    | .sRStop => .sRStop | .sRWait => .sRWait | .sRStart => .sRStart | .sRSettle => .sRSettle | .sRead => .sRead
    | .sStop => .sStop | .sDecorr => .sDecorr | .hUpdate => .hUpdate | .hFinal => .hFinal | .derive => .derive
    | .fail => .fail := by
  cases p <;> rfl

end Sys2Proof.Machine
end

