-- ==== Sys2Proof/Laws/State.lean ====
section
/-! SUPPORT. The value of every field of State after each named update, true by unfolding, for simp; and the reset state. -/

namespace Sys2Proof.Machine

/-! ### `Finish(e)`, R132 -/

@[simp] theorem finish_busy (e : Err) (s : State) : (finish e s).busy = false := rfl
@[simp] theorem finish_done (e : Err) (s : State) : (finish e s).done = true := rfl
@[simp] theorem finish_init (e : Err) (s : State) : (finish e s).init = s.init := rfl
@[simp] theorem finish_rej (e : Err) (s : State) : (finish e s).rej = s.rej := rfl
@[simp] theorem finish_err (e : Err) (s : State) : (finish e s).err = e := rfl
@[simp] theorem finish_phase (e : Err) (s : State) : (finish e s).phase = .idle := rfl
@[simp] theorem finish_op (e : Err) (s : State) : (finish e s).op = s.op := rfl
@[simp] theorem finish_limit (e : Err) (s : State) : (finish e s).limit = s.limit := rfl
@[simp] theorem finish_limitEn (e : Err) (s : State) : (finish e s).limitEn = s.limitEn := rfl
@[simp] theorem finish_word (e : Err) (s : State) : (finish e s).word = s.word := rfl
@[simp] theorem finish_acc (e : Err) (s : State) : (finish e s).acc = s.acc := rfl
@[simp] theorem finish_bitcnt (e : Err) (s : State) : (finish e s).bitcnt = s.bitcnt := rfl
@[simp] theorem finish_ebits (e : Err) (s : State) : (finish e s).ebits = s.ebits := rfl
@[simp] theorem finish_rcnt (e : Err) (s : State) : (finish e s).rcnt = s.rcnt := rfl
@[simp] theorem finish_ctxState (e : Err) (s : State) : (finish e s).ctxState = s.ctxState := rfl
@[simp] theorem finish_counter (e : Err) (s : State) : (finish e s).counter = s.counter := rfl
@[simp] theorem finish_adcOn (e : Err) (s : State) : (finish e s).adcOn = s.adcOn := rfl
@[simp] theorem finish_hctxOpen (e : Err) (s : State) : (finish e s).hctxOpen = s.hctxOpen := rfl
@[simp] theorem finish_htag (e : Err) (s : State) : (finish e s).htag = s.htag := rfl
@[simp] theorem finish_hmsg (e : Err) (s : State) : (finish e s).hmsg = s.hmsg := rfl
@[simp] theorem finish_adc (e : Err) (s : State) : (finish e s).adc = s.adc := rfl
@[simp] theorem finish_draws (e : Err) (s : State) : (finish e s).draws = s.draws := rfl
@[simp] theorem finish_agenda (e : Err) (s : State) : (finish e s).agenda = s.agenda := rfl
@[simp] theorem finish_bus (e : Err) (s : State) : (finish e s).bus = s.bus := rfl
@[simp] theorem finish_ports (e : Err) (s : State) : (finish e s).ports = s.ports := rfl

/-! ### `BeginWord`, R86 -/

@[simp] theorem beginWord_busy (s : State) : (beginWord s).busy = s.busy := rfl
@[simp] theorem beginWord_done (s : State) : (beginWord s).done = s.done := rfl
@[simp] theorem beginWord_init (s : State) : (beginWord s).init = s.init := rfl
@[simp] theorem beginWord_rej (s : State) : (beginWord s).rej = s.rej := rfl
@[simp] theorem beginWord_err (s : State) : (beginWord s).err = s.err := rfl
@[simp] theorem beginWord_phase (s : State) : (beginWord s).phase = .sStart := rfl
@[simp] theorem beginWord_op (s : State) : (beginWord s).op = s.op := rfl
@[simp] theorem beginWord_limit (s : State) : (beginWord s).limit = s.limit := rfl
@[simp] theorem beginWord_limitEn (s : State) : (beginWord s).limitEn = s.limitEn := rfl
@[simp] theorem beginWord_word (s : State) : (beginWord s).word = s.word := rfl
@[simp] theorem beginWord_acc (s : State) : (beginWord s).acc = 0x00000000#32 := rfl
@[simp] theorem beginWord_bitcnt (s : State) : (beginWord s).bitcnt = 0 := rfl
@[simp] theorem beginWord_ebits (s : State) : (beginWord s).ebits = s.ebits := rfl
@[simp] theorem beginWord_rcnt (s : State) : (beginWord s).rcnt = s.rcnt := rfl
@[simp] theorem beginWord_ctxState (s : State) : (beginWord s).ctxState = s.ctxState := rfl
@[simp] theorem beginWord_counter (s : State) : (beginWord s).counter = s.counter := rfl
@[simp] theorem beginWord_adcOn (s : State) : (beginWord s).adcOn = s.adcOn := rfl
@[simp] theorem beginWord_hctxOpen (s : State) : (beginWord s).hctxOpen = s.hctxOpen := rfl
@[simp] theorem beginWord_htag (s : State) : (beginWord s).htag = s.htag := rfl
@[simp] theorem beginWord_hmsg (s : State) : (beginWord s).hmsg = s.hmsg := rfl
@[simp] theorem beginWord_adc (s : State) : (beginWord s).adc = s.adc := rfl
@[simp] theorem beginWord_draws (s : State) : (beginWord s).draws = s.draws := rfl
@[simp] theorem beginWord_agenda (s : State) : (beginWord s).agenda = s.agenda := rfl
@[simp] theorem beginWord_bus (s : State) : (beginWord s).bus = s.bus := rfl
@[simp] theorem beginWord_ports (s : State) : (beginWord s).ports = s.ports := rfl

/-! ### an answer to the host -/

@[simp] theorem answer_busy (b : BusAnswer) (s : State) : (answer b s).busy = s.busy := rfl
@[simp] theorem answer_done (b : BusAnswer) (s : State) : (answer b s).done = s.done := rfl
@[simp] theorem answer_init (b : BusAnswer) (s : State) : (answer b s).init = s.init := rfl
@[simp] theorem answer_rej (b : BusAnswer) (s : State) : (answer b s).rej = s.rej := rfl
@[simp] theorem answer_err (b : BusAnswer) (s : State) : (answer b s).err = s.err := rfl
@[simp] theorem answer_phase (b : BusAnswer) (s : State) : (answer b s).phase = s.phase := rfl
@[simp] theorem answer_op (b : BusAnswer) (s : State) : (answer b s).op = s.op := rfl
@[simp] theorem answer_limit (b : BusAnswer) (s : State) : (answer b s).limit = s.limit := rfl
@[simp] theorem answer_limitEn (b : BusAnswer) (s : State) : (answer b s).limitEn = s.limitEn := rfl
@[simp] theorem answer_word (b : BusAnswer) (s : State) : (answer b s).word = s.word := rfl
@[simp] theorem answer_acc (b : BusAnswer) (s : State) : (answer b s).acc = s.acc := rfl
@[simp] theorem answer_bitcnt (b : BusAnswer) (s : State) : (answer b s).bitcnt = s.bitcnt := rfl
@[simp] theorem answer_ebits (b : BusAnswer) (s : State) : (answer b s).ebits = s.ebits := rfl
@[simp] theorem answer_rcnt (b : BusAnswer) (s : State) : (answer b s).rcnt = s.rcnt := rfl
@[simp] theorem answer_ctxState (b : BusAnswer) (s : State) : (answer b s).ctxState = s.ctxState := rfl
@[simp] theorem answer_counter (b : BusAnswer) (s : State) : (answer b s).counter = s.counter := rfl
@[simp] theorem answer_adcOn (b : BusAnswer) (s : State) : (answer b s).adcOn = s.adcOn := rfl
@[simp] theorem answer_hctxOpen (b : BusAnswer) (s : State) : (answer b s).hctxOpen = s.hctxOpen := rfl
@[simp] theorem answer_htag (b : BusAnswer) (s : State) : (answer b s).htag = s.htag := rfl
@[simp] theorem answer_hmsg (b : BusAnswer) (s : State) : (answer b s).hmsg = s.hmsg := rfl
@[simp] theorem answer_adc (b : BusAnswer) (s : State) : (answer b s).adc = s.adc := rfl
@[simp] theorem answer_draws (b : BusAnswer) (s : State) : (answer b s).draws = s.draws := rfl
@[simp] theorem answer_agenda (b : BusAnswer) (s : State) : (answer b s).agenda = s.agenda := rfl
@[simp] theorem answer_bus (b : BusAnswer) (s : State) : (answer b s).bus = b := rfl
@[simp] theorem answer_ports (b : BusAnswer) (s : State) : (answer b s).ports = s.ports := rfl

/-! ### a rejected write, R145 -/

@[simp] theorem rejectWrite_busy (s : State) : (rejectWrite s).busy = s.busy := rfl
@[simp] theorem rejectWrite_done (s : State) : (rejectWrite s).done = s.done := rfl
@[simp] theorem rejectWrite_init (s : State) : (rejectWrite s).init = s.init := rfl
@[simp] theorem rejectWrite_rej (s : State) : (rejectWrite s).rej = true := rfl
@[simp] theorem rejectWrite_err (s : State) : (rejectWrite s).err = s.err := rfl
@[simp] theorem rejectWrite_phase (s : State) : (rejectWrite s).phase = s.phase := rfl
@[simp] theorem rejectWrite_op (s : State) : (rejectWrite s).op = s.op := rfl
@[simp] theorem rejectWrite_limit (s : State) : (rejectWrite s).limit = s.limit := rfl
@[simp] theorem rejectWrite_limitEn (s : State) : (rejectWrite s).limitEn = s.limitEn := rfl
@[simp] theorem rejectWrite_word (s : State) : (rejectWrite s).word = s.word := rfl
@[simp] theorem rejectWrite_acc (s : State) : (rejectWrite s).acc = s.acc := rfl
@[simp] theorem rejectWrite_bitcnt (s : State) : (rejectWrite s).bitcnt = s.bitcnt := rfl
@[simp] theorem rejectWrite_ebits (s : State) : (rejectWrite s).ebits = s.ebits := rfl
@[simp] theorem rejectWrite_rcnt (s : State) : (rejectWrite s).rcnt = s.rcnt := rfl
@[simp] theorem rejectWrite_ctxState (s : State) : (rejectWrite s).ctxState = s.ctxState := rfl
@[simp] theorem rejectWrite_counter (s : State) : (rejectWrite s).counter = s.counter := rfl
@[simp] theorem rejectWrite_adcOn (s : State) : (rejectWrite s).adcOn = s.adcOn := rfl
@[simp] theorem rejectWrite_hctxOpen (s : State) : (rejectWrite s).hctxOpen = s.hctxOpen := rfl
@[simp] theorem rejectWrite_htag (s : State) : (rejectWrite s).htag = s.htag := rfl
@[simp] theorem rejectWrite_hmsg (s : State) : (rejectWrite s).hmsg = s.hmsg := rfl
@[simp] theorem rejectWrite_adc (s : State) : (rejectWrite s).adc = s.adc := rfl
@[simp] theorem rejectWrite_draws (s : State) : (rejectWrite s).draws = s.draws := rfl
@[simp] theorem rejectWrite_agenda (s : State) : (rejectWrite s).agenda = s.agenda := rfl
@[simp] theorem rejectWrite_bus (s : State) : (rejectWrite s).bus = s.bus := rfl
@[simp] theorem rejectWrite_ports (s : State) : (rejectWrite s).ports = s.ports := rfl

/-! ### the first effects of an accepted command, R125 -/

@[simp] theorem openCommand_busy (s : State) : (openCommand s).busy = s.busy := rfl
@[simp] theorem openCommand_done (s : State) : (openCommand s).done = false := rfl
@[simp] theorem openCommand_init (s : State) : (openCommand s).init = s.init := rfl
@[simp] theorem openCommand_rej (s : State) : (openCommand s).rej = false := rfl
@[simp] theorem openCommand_err (s : State) : (openCommand s).err = .ok := rfl
@[simp] theorem openCommand_phase (s : State) : (openCommand s).phase = s.phase := rfl
@[simp] theorem openCommand_op (s : State) : (openCommand s).op = s.op := rfl
@[simp] theorem openCommand_limit (s : State) : (openCommand s).limit = s.limit := rfl
@[simp] theorem openCommand_limitEn (s : State) : (openCommand s).limitEn = s.limitEn := rfl
@[simp] theorem openCommand_word (s : State) : (openCommand s).word = s.word := rfl
@[simp] theorem openCommand_acc (s : State) : (openCommand s).acc = s.acc := rfl
@[simp] theorem openCommand_bitcnt (s : State) : (openCommand s).bitcnt = s.bitcnt := rfl
@[simp] theorem openCommand_ebits (s : State) : (openCommand s).ebits = s.ebits := rfl
@[simp] theorem openCommand_rcnt (s : State) : (openCommand s).rcnt = s.rcnt := rfl
@[simp] theorem openCommand_ctxState (s : State) : (openCommand s).ctxState = s.ctxState := rfl
@[simp] theorem openCommand_counter (s : State) : (openCommand s).counter = s.counter := rfl
@[simp] theorem openCommand_adcOn (s : State) : (openCommand s).adcOn = s.adcOn := rfl
@[simp] theorem openCommand_hctxOpen (s : State) : (openCommand s).hctxOpen = s.hctxOpen := rfl
@[simp] theorem openCommand_htag (s : State) : (openCommand s).htag = s.htag := rfl
@[simp] theorem openCommand_hmsg (s : State) : (openCommand s).hmsg = s.hmsg := rfl
@[simp] theorem openCommand_adc (s : State) : (openCommand s).adc = s.adc := rfl
@[simp] theorem openCommand_draws (s : State) : (openCommand s).draws = s.draws := rfl
@[simp] theorem openCommand_agenda (s : State) : (openCommand s).agenda = s.agenda := rfl
@[simp] theorem openCommand_bus (s : State) : (openCommand s).bus = s.bus := rfl
@[simp] theorem openCommand_ports (s : State) : (openCommand s).ports = s.ports := rfl

/-! ### a port transaction is issued -/

@[simp] theorem logPort_busy (x : PortTx) (s : State) : (logPort x s).busy = s.busy := rfl
@[simp] theorem logPort_done (x : PortTx) (s : State) : (logPort x s).done = s.done := rfl
@[simp] theorem logPort_init (x : PortTx) (s : State) : (logPort x s).init = s.init := rfl
@[simp] theorem logPort_rej (x : PortTx) (s : State) : (logPort x s).rej = s.rej := rfl
@[simp] theorem logPort_err (x : PortTx) (s : State) : (logPort x s).err = s.err := rfl
@[simp] theorem logPort_phase (x : PortTx) (s : State) : (logPort x s).phase = s.phase := rfl
@[simp] theorem logPort_op (x : PortTx) (s : State) : (logPort x s).op = s.op := rfl
@[simp] theorem logPort_limit (x : PortTx) (s : State) : (logPort x s).limit = s.limit := rfl
@[simp] theorem logPort_limitEn (x : PortTx) (s : State) : (logPort x s).limitEn = s.limitEn := rfl
@[simp] theorem logPort_word (x : PortTx) (s : State) : (logPort x s).word = s.word := rfl
@[simp] theorem logPort_acc (x : PortTx) (s : State) : (logPort x s).acc = s.acc := rfl
@[simp] theorem logPort_bitcnt (x : PortTx) (s : State) : (logPort x s).bitcnt = s.bitcnt := rfl
@[simp] theorem logPort_ebits (x : PortTx) (s : State) : (logPort x s).ebits = s.ebits := rfl
@[simp] theorem logPort_rcnt (x : PortTx) (s : State) : (logPort x s).rcnt = s.rcnt := rfl
@[simp] theorem logPort_ctxState (x : PortTx) (s : State) : (logPort x s).ctxState = s.ctxState := rfl
@[simp] theorem logPort_counter (x : PortTx) (s : State) : (logPort x s).counter = s.counter := rfl
@[simp] theorem logPort_adcOn (x : PortTx) (s : State) : (logPort x s).adcOn = s.adcOn := rfl
@[simp] theorem logPort_hctxOpen (x : PortTx) (s : State) : (logPort x s).hctxOpen = s.hctxOpen := rfl
@[simp] theorem logPort_htag (x : PortTx) (s : State) : (logPort x s).htag = s.htag := rfl
@[simp] theorem logPort_hmsg (x : PortTx) (s : State) : (logPort x s).hmsg = s.hmsg := rfl
@[simp] theorem logPort_adc (x : PortTx) (s : State) : (logPort x s).adc = s.adc := rfl
@[simp] theorem logPort_draws (x : PortTx) (s : State) : (logPort x s).draws = s.draws := rfl
@[simp] theorem logPort_agenda (x : PortTx) (s : State) : (logPort x s).agenda = s.agenda := rfl
@[simp] theorem logPort_bus (x : PortTx) (s : State) : (logPort x s).bus = s.bus := rfl
@[simp] theorem logPort_ports (x : PortTx) (s : State) : (logPort x s).ports = x :: s.ports := rfl

/-! ### `HashInit(g, none)`, R58 -/

@[simp] theorem hashInit_busy (g : Tag) (s : State) : (hashInit g s).busy = s.busy := rfl
@[simp] theorem hashInit_done (g : Tag) (s : State) : (hashInit g s).done = s.done := rfl
@[simp] theorem hashInit_init (g : Tag) (s : State) : (hashInit g s).init = s.init := rfl
@[simp] theorem hashInit_rej (g : Tag) (s : State) : (hashInit g s).rej = s.rej := rfl
@[simp] theorem hashInit_err (g : Tag) (s : State) : (hashInit g s).err = s.err := rfl
@[simp] theorem hashInit_phase (g : Tag) (s : State) : (hashInit g s).phase = s.phase := rfl
@[simp] theorem hashInit_op (g : Tag) (s : State) : (hashInit g s).op = s.op := rfl
@[simp] theorem hashInit_limit (g : Tag) (s : State) : (hashInit g s).limit = s.limit := rfl
@[simp] theorem hashInit_limitEn (g : Tag) (s : State) : (hashInit g s).limitEn = s.limitEn := rfl
@[simp] theorem hashInit_word (g : Tag) (s : State) : (hashInit g s).word = s.word := rfl
@[simp] theorem hashInit_acc (g : Tag) (s : State) : (hashInit g s).acc = s.acc := rfl
@[simp] theorem hashInit_bitcnt (g : Tag) (s : State) : (hashInit g s).bitcnt = s.bitcnt := rfl
@[simp] theorem hashInit_ebits (g : Tag) (s : State) : (hashInit g s).ebits = s.ebits := rfl
@[simp] theorem hashInit_rcnt (g : Tag) (s : State) : (hashInit g s).rcnt = s.rcnt := rfl
@[simp] theorem hashInit_ctxState (g : Tag) (s : State) : (hashInit g s).ctxState = s.ctxState := rfl
@[simp] theorem hashInit_counter (g : Tag) (s : State) : (hashInit g s).counter = s.counter := rfl
@[simp] theorem hashInit_adcOn (g : Tag) (s : State) : (hashInit g s).adcOn = s.adcOn := rfl
@[simp] theorem hashInit_hctxOpen (g : Tag) (s : State) : (hashInit g s).hctxOpen = s.hctxOpen := rfl
@[simp] theorem hashInit_htag (g : Tag) (s : State) : (hashInit g s).htag = g := rfl
@[simp] theorem hashInit_hmsg (g : Tag) (s : State) : (hashInit g s).hmsg = [] := rfl
@[simp] theorem hashInit_adc (g : Tag) (s : State) : (hashInit g s).adc = s.adc := rfl
@[simp] theorem hashInit_draws (g : Tag) (s : State) : (hashInit g s).draws = s.draws := rfl
@[simp] theorem hashInit_agenda (g : Tag) (s : State) : (hashInit g s).agenda = s.agenda := rfl
@[simp] theorem hashInit_bus (g : Tag) (s : State) : (hashInit g s).bus = s.bus := rfl
@[simp] theorem hashInit_ports (g : Tag) (s : State) : (hashInit g s).ports = .hashInit g none :: s.ports := rfl

/-! ### `HashUpdate(b)`, R58 -/

@[simp] theorem hashUpdate_busy (b : List Byte) (s : State) : (hashUpdate b s).busy = s.busy := rfl
@[simp] theorem hashUpdate_done (b : List Byte) (s : State) : (hashUpdate b s).done = s.done := rfl
@[simp] theorem hashUpdate_init (b : List Byte) (s : State) : (hashUpdate b s).init = s.init := rfl
@[simp] theorem hashUpdate_rej (b : List Byte) (s : State) : (hashUpdate b s).rej = s.rej := rfl
@[simp] theorem hashUpdate_err (b : List Byte) (s : State) : (hashUpdate b s).err = s.err := rfl
@[simp] theorem hashUpdate_phase (b : List Byte) (s : State) : (hashUpdate b s).phase = s.phase := rfl
@[simp] theorem hashUpdate_op (b : List Byte) (s : State) : (hashUpdate b s).op = s.op := rfl
@[simp] theorem hashUpdate_limit (b : List Byte) (s : State) : (hashUpdate b s).limit = s.limit := rfl
@[simp] theorem hashUpdate_limitEn (b : List Byte) (s : State) : (hashUpdate b s).limitEn = s.limitEn := rfl
@[simp] theorem hashUpdate_word (b : List Byte) (s : State) : (hashUpdate b s).word = s.word := rfl
@[simp] theorem hashUpdate_acc (b : List Byte) (s : State) : (hashUpdate b s).acc = s.acc := rfl
@[simp] theorem hashUpdate_bitcnt (b : List Byte) (s : State) : (hashUpdate b s).bitcnt = s.bitcnt := rfl
@[simp] theorem hashUpdate_ebits (b : List Byte) (s : State) : (hashUpdate b s).ebits = s.ebits := rfl
@[simp] theorem hashUpdate_rcnt (b : List Byte) (s : State) : (hashUpdate b s).rcnt = s.rcnt := rfl
@[simp] theorem hashUpdate_ctxState (b : List Byte) (s : State) : (hashUpdate b s).ctxState = s.ctxState := rfl
@[simp] theorem hashUpdate_counter (b : List Byte) (s : State) : (hashUpdate b s).counter = s.counter := rfl
@[simp] theorem hashUpdate_adcOn (b : List Byte) (s : State) : (hashUpdate b s).adcOn = s.adcOn := rfl
@[simp] theorem hashUpdate_hctxOpen (b : List Byte) (s : State) : (hashUpdate b s).hctxOpen = s.hctxOpen := rfl
@[simp] theorem hashUpdate_htag (b : List Byte) (s : State) : (hashUpdate b s).htag = s.htag := rfl
@[simp] theorem hashUpdate_hmsg (b : List Byte) (s : State) : (hashUpdate b s).hmsg = s.hmsg ++ b := rfl
@[simp] theorem hashUpdate_adc (b : List Byte) (s : State) : (hashUpdate b s).adc = s.adc := rfl
@[simp] theorem hashUpdate_draws (b : List Byte) (s : State) : (hashUpdate b s).draws = s.draws := rfl
@[simp] theorem hashUpdate_agenda (b : List Byte) (s : State) : (hashUpdate b s).agenda = s.agenda := rfl
@[simp] theorem hashUpdate_bus (b : List Byte) (s : State) : (hashUpdate b s).bus = s.bus := rfl
@[simp] theorem hashUpdate_ports (b : List Byte) (s : State) : (hashUpdate b s).ports = .hashUpdate b :: s.ports := rfl

/-! ### `HashFinal(n)`, R58 -/

@[simp] theorem hashFinal_busy (n : Nat) (s : State) : (hashFinal n s).busy = s.busy := rfl
@[simp] theorem hashFinal_done (n : Nat) (s : State) : (hashFinal n s).done = s.done := rfl
@[simp] theorem hashFinal_init (n : Nat) (s : State) : (hashFinal n s).init = s.init := rfl
@[simp] theorem hashFinal_rej (n : Nat) (s : State) : (hashFinal n s).rej = s.rej := rfl
@[simp] theorem hashFinal_err (n : Nat) (s : State) : (hashFinal n s).err = s.err := rfl
@[simp] theorem hashFinal_phase (n : Nat) (s : State) : (hashFinal n s).phase = s.phase := rfl
@[simp] theorem hashFinal_op (n : Nat) (s : State) : (hashFinal n s).op = s.op := rfl
@[simp] theorem hashFinal_limit (n : Nat) (s : State) : (hashFinal n s).limit = s.limit := rfl
@[simp] theorem hashFinal_limitEn (n : Nat) (s : State) : (hashFinal n s).limitEn = s.limitEn := rfl
@[simp] theorem hashFinal_word (n : Nat) (s : State) : (hashFinal n s).word = s.word := rfl
@[simp] theorem hashFinal_acc (n : Nat) (s : State) : (hashFinal n s).acc = s.acc := rfl
@[simp] theorem hashFinal_bitcnt (n : Nat) (s : State) : (hashFinal n s).bitcnt = s.bitcnt := rfl
@[simp] theorem hashFinal_ebits (n : Nat) (s : State) : (hashFinal n s).ebits = s.ebits := rfl
@[simp] theorem hashFinal_rcnt (n : Nat) (s : State) : (hashFinal n s).rcnt = s.rcnt := rfl
@[simp] theorem hashFinal_ctxState (n : Nat) (s : State) : (hashFinal n s).ctxState = s.ctxState := rfl
@[simp] theorem hashFinal_counter (n : Nat) (s : State) : (hashFinal n s).counter = s.counter := rfl
@[simp] theorem hashFinal_adcOn (n : Nat) (s : State) : (hashFinal n s).adcOn = s.adcOn := rfl
@[simp] theorem hashFinal_hctxOpen (n : Nat) (s : State) : (hashFinal n s).hctxOpen = s.hctxOpen := rfl
@[simp] theorem hashFinal_htag (n : Nat) (s : State) : (hashFinal n s).htag = s.htag := rfl
@[simp] theorem hashFinal_hmsg (n : Nat) (s : State) : (hashFinal n s).hmsg = s.hmsg := rfl
@[simp] theorem hashFinal_adc (n : Nat) (s : State) : (hashFinal n s).adc = s.adc := rfl
@[simp] theorem hashFinal_draws (n : Nat) (s : State) : (hashFinal n s).draws = s.draws := rfl
@[simp] theorem hashFinal_agenda (n : Nat) (s : State) : (hashFinal n s).agenda = s.agenda := rfl
@[simp] theorem hashFinal_bus (n : Nat) (s : State) : (hashFinal n s).bus = s.bus := rfl
@[simp] theorem hashFinal_ports (n : Nat) (s : State) : (hashFinal n s).ports = .hashFinal n (digest n s) :: s.ports := rfl

/-! ### `Wait(d)`, R13 -/

@[simp] theorem wait_busy (d : Duration) (s : State) : (wait d s).busy = s.busy := rfl
@[simp] theorem wait_done (d : Duration) (s : State) : (wait d s).done = s.done := rfl
@[simp] theorem wait_init (d : Duration) (s : State) : (wait d s).init = s.init := rfl
@[simp] theorem wait_rej (d : Duration) (s : State) : (wait d s).rej = s.rej := rfl
@[simp] theorem wait_err (d : Duration) (s : State) : (wait d s).err = s.err := rfl
@[simp] theorem wait_phase (d : Duration) (s : State) : (wait d s).phase = s.phase := rfl
@[simp] theorem wait_op (d : Duration) (s : State) : (wait d s).op = s.op := rfl
@[simp] theorem wait_limit (d : Duration) (s : State) : (wait d s).limit = s.limit := rfl
@[simp] theorem wait_limitEn (d : Duration) (s : State) : (wait d s).limitEn = s.limitEn := rfl
@[simp] theorem wait_word (d : Duration) (s : State) : (wait d s).word = s.word := rfl
@[simp] theorem wait_acc (d : Duration) (s : State) : (wait d s).acc = s.acc := rfl
@[simp] theorem wait_bitcnt (d : Duration) (s : State) : (wait d s).bitcnt = s.bitcnt := rfl
@[simp] theorem wait_ebits (d : Duration) (s : State) : (wait d s).ebits = s.ebits := rfl
@[simp] theorem wait_rcnt (d : Duration) (s : State) : (wait d s).rcnt = s.rcnt := rfl
@[simp] theorem wait_ctxState (d : Duration) (s : State) : (wait d s).ctxState = s.ctxState := rfl
@[simp] theorem wait_counter (d : Duration) (s : State) : (wait d s).counter = s.counter := rfl
@[simp] theorem wait_adcOn (d : Duration) (s : State) : (wait d s).adcOn = s.adcOn := rfl
@[simp] theorem wait_hctxOpen (d : Duration) (s : State) : (wait d s).hctxOpen = s.hctxOpen := rfl
@[simp] theorem wait_htag (d : Duration) (s : State) : (wait d s).htag = s.htag := rfl
@[simp] theorem wait_hmsg (d : Duration) (s : State) : (wait d s).hmsg = s.hmsg := rfl
@[simp] theorem wait_adc (d : Duration) (s : State) : (wait d s).adc = s.adc := rfl
@[simp] theorem wait_draws (d : Duration) (s : State) : (wait d s).draws = s.draws := rfl
@[simp] theorem wait_agenda (d : Duration) (s : State) : (wait d s).agenda = s.agenda := rfl
@[simp] theorem wait_bus (d : Duration) (s : State) : (wait d s).bus = s.bus := rfl
@[simp] theorem wait_ports (d : Duration) (s : State) : (wait d s).ports = s.ports := rfl

/-! ### the bit-packer's step, R95 -/

@[simp] theorem packSample_busy (raw : BitVec Config.adcWidth) (s : State) : (packSample raw s).busy = s.busy := rfl
@[simp] theorem packSample_done (raw : BitVec Config.adcWidth) (s : State) : (packSample raw s).done = s.done := rfl
@[simp] theorem packSample_init (raw : BitVec Config.adcWidth) (s : State) : (packSample raw s).init = s.init := rfl
@[simp] theorem packSample_rej (raw : BitVec Config.adcWidth) (s : State) : (packSample raw s).rej = s.rej := rfl
@[simp] theorem packSample_err (raw : BitVec Config.adcWidth) (s : State) : (packSample raw s).err = s.err := rfl
@[simp] theorem packSample_phase (raw : BitVec Config.adcWidth) (s : State) : (packSample raw s).phase = .sStop := rfl
@[simp] theorem packSample_op (raw : BitVec Config.adcWidth) (s : State) : (packSample raw s).op = s.op := rfl
@[simp] theorem packSample_limit (raw : BitVec Config.adcWidth) (s : State) : (packSample raw s).limit = s.limit := rfl
@[simp] theorem packSample_limitEn (raw : BitVec Config.adcWidth) (s : State) : (packSample raw s).limitEn = s.limitEn := rfl
@[simp] theorem packSample_word (raw : BitVec Config.adcWidth) (s : State) : (packSample raw s).word = s.word := rfl
@[simp] theorem packSample_acc (raw : BitVec Config.adcWidth) (s : State) : (packSample raw s).acc = pack s.acc raw := rfl
@[simp] theorem packSample_bitcnt (raw : BitVec Config.adcWidth) (s : State) : (packSample raw s).bitcnt = s.bitcnt + 2#6 := rfl
@[simp] theorem packSample_ebits (raw : BitVec Config.adcWidth) (s : State) : (packSample raw s).ebits = s.ebits := rfl
@[simp] theorem packSample_rcnt (raw : BitVec Config.adcWidth) (s : State) : (packSample raw s).rcnt = s.rcnt := rfl
@[simp] theorem packSample_ctxState (raw : BitVec Config.adcWidth) (s : State) : (packSample raw s).ctxState = s.ctxState := rfl
@[simp] theorem packSample_counter (raw : BitVec Config.adcWidth) (s : State) : (packSample raw s).counter = s.counter := rfl
@[simp] theorem packSample_adcOn (raw : BitVec Config.adcWidth) (s : State) : (packSample raw s).adcOn = s.adcOn := rfl
@[simp] theorem packSample_hctxOpen (raw : BitVec Config.adcWidth) (s : State) : (packSample raw s).hctxOpen = s.hctxOpen := rfl
@[simp] theorem packSample_htag (raw : BitVec Config.adcWidth) (s : State) : (packSample raw s).htag = s.htag := rfl
@[simp] theorem packSample_hmsg (raw : BitVec Config.adcWidth) (s : State) : (packSample raw s).hmsg = s.hmsg := rfl
@[simp] theorem packSample_adc (raw : BitVec Config.adcWidth) (s : State) : (packSample raw s).adc = s.adc := rfl
@[simp] theorem packSample_draws (raw : BitVec Config.adcWidth) (s : State) : (packSample raw s).draws = s.draws := rfl
@[simp] theorem packSample_agenda (raw : BitVec Config.adcWidth) (s : State) : (packSample raw s).agenda = s.agenda := rfl
@[simp] theorem packSample_bus (raw : BitVec Config.adcWidth) (s : State) : (packSample raw s).bus = s.bus := rfl
@[simp] theorem packSample_ports (raw : BitVec Config.adcWidth) (s : State) : (packSample raw s).ports = s.ports := rfl

/-! ### Reset, R165 -/

@[simp] theorem platformReset_busy (r : Bool) (s : State) : (platformReset r s).busy = State.reset.busy := rfl
@[simp] theorem platformReset_done (r : Bool) (s : State) : (platformReset r s).done = State.reset.done := rfl
@[simp] theorem platformReset_init (r : Bool) (s : State) : (platformReset r s).init = State.reset.init := rfl
@[simp] theorem platformReset_rej (r : Bool) (s : State) : (platformReset r s).rej = State.reset.rej := rfl
@[simp] theorem platformReset_err (r : Bool) (s : State) : (platformReset r s).err = State.reset.err := rfl
@[simp] theorem platformReset_phase (r : Bool) (s : State) : (platformReset r s).phase = State.reset.phase := rfl
@[simp] theorem platformReset_op (r : Bool) (s : State) : (platformReset r s).op = State.reset.op := rfl
@[simp] theorem platformReset_limit (r : Bool) (s : State) : (platformReset r s).limit = State.reset.limit := rfl
@[simp] theorem platformReset_limitEn (r : Bool) (s : State) : (platformReset r s).limitEn = State.reset.limitEn := rfl
@[simp] theorem platformReset_word (r : Bool) (s : State) : (platformReset r s).word = State.reset.word := rfl
@[simp] theorem platformReset_acc (r : Bool) (s : State) : (platformReset r s).acc = State.reset.acc := rfl
@[simp] theorem platformReset_bitcnt (r : Bool) (s : State) : (platformReset r s).bitcnt = State.reset.bitcnt := rfl
@[simp] theorem platformReset_ebits (r : Bool) (s : State) : (platformReset r s).ebits = State.reset.ebits := rfl
@[simp] theorem platformReset_rcnt (r : Bool) (s : State) : (platformReset r s).rcnt = State.reset.rcnt := rfl
@[simp] theorem platformReset_ctxState (r : Bool) (s : State) : (platformReset r s).ctxState = State.reset.ctxState := rfl
@[simp] theorem platformReset_counter (r : Bool) (s : State) : (platformReset r s).counter = State.reset.counter := rfl
@[simp] theorem platformReset_adcOn (r : Bool) (s : State) : (platformReset r s).adcOn = State.reset.adcOn := rfl
@[simp] theorem platformReset_hctxOpen (r : Bool) (s : State) : (platformReset r s).hctxOpen = State.reset.hctxOpen := rfl
@[simp] theorem platformReset_htag (r : Bool) (s : State) : (platformReset r s).htag = s.htag := rfl
@[simp] theorem platformReset_hmsg (r : Bool) (s : State) : (platformReset r s).hmsg = s.hmsg := rfl
@[simp] theorem platformReset_adc (r : Bool) (s : State) : (platformReset r s).adc = if r then .stopped else s.adc := rfl
@[simp] theorem platformReset_draws (r : Bool) (s : State) : (platformReset r s).draws = s.draws := rfl
@[simp] theorem platformReset_agenda (r : Bool) (s : State) : (platformReset r s).agenda = s.agenda := rfl
@[simp] theorem platformReset_bus (r : Bool) (s : State) : (platformReset r s).bus = s.bus := rfl
@[simp] theorem platformReset_ports (r : Bool) (s : State) : (platformReset r s).ports = s.ports := rfl

end Sys2Proof.Machine
end

