-- ==== Sys2Proof/Laws/Operands.lean ====
section
/-! SUPPORT. The value functions as bits and as numbers: `STATE_W[k]`, the pack function, the little-endian integer. -/

open Sys2Proof

namespace Sys2Proof.Machine

/-- R89: the retry count saturates. -/
theorem countRetry_toNat (r : BitVec 16) : (countRetry r).toNat = min 0xFFFF (r.toNat + 1) := by
  have hr := r.isLt
  unfold countRetry
  split
  · next h => subst h; rfl
  · next h =>
    have : r.toNat ≠ 65535 := fun h' => h (BitVec.eq_of_toNat_eq h')
    rw [BitVec.toNat_add, BitVec.toNat_ofNat]
    omega

/-- The bits of four bytes laid side by side, the last one lowest. -/
theorem append_bytes_getLsbD (a b c d : Byte) (i : Nat) : ((a ++ b ++ c ++ d : BitVec (8+8+8+8)) : Word).getLsbD i =
    if i < 8 then d.getLsbD i else if i < 16 then c.getLsbD (i-8) else if i < 24 then b.getLsbD (i-16) else a.getLsbD (i-24) := by
  rw [BitVec.getLsbD_append, BitVec.getLsbD_append, BitVec.getLsbD_append]
  by_cases h1 : i < 8
  · simp [h1]
  · by_cases h2 : i < 16
    · have : i - 8 < 8 := by omega
      simp [h1, h2, this]
    · by_cases h3 : i < 24
      · have h4: ¬ i - 8 < 8 := by omega
        have h5: i - 8 - 8 < 8 := by omega
        simp [h1, h2, h3, h4, Nat.sub_sub]; omega
      · have h4: ¬ i - 8 < 8 := by omega
        have h5: ¬ i - 8 - 8 < 8 := by omega
        simp [h1, h2, h3, h4, Nat.sub_sub]; omega


/-- R40: byte j of `STATE_W[k]` is byte 4k + j of the context's state. -/
theorem stateW_byte (s : State) (k j : Nat) (hj : j < 4) : (stateW s k).extractLsb' (8*j) 8 = ctxByte s (4*k+j) := by
  apply BitVec.eq_of_getLsbD_eq
  intro i hi
  rw [BitVec.getLsbD_extractLsb', stateW, append_bytes_getLsbD]
  obtain rfl | rfl | rfl | rfl : j = 0 ∨ j = 1 ∨ j = 2 ∨ j = 3 := by omega
  · simp [hi]
  · simp [hi, show ¬ 8 + i < 8 by omega, show 8 + i < 16 by omega]
  · simp [hi, show ¬ 16 + i < 8 by omega, show ¬ 16 + i < 16 by omega, show 16 + i < 24 by omega]
  · simp [hi, show ¬ 24 + i < 8 by omega, show ¬ 24 + i < 16 by omega, show ¬ 24 + i < 24 by omega]

/-- R96: the pack function drops the two high bits and puts the sample's two low bits below. -/
theorem pack_eq_append (a : Word) (raw : BitVec Config.adcWidth) :
    pack a raw = a.extractLsb' 0 30 ++ raw.extractLsb' 0 2 := by
  apply BitVec.eq_of_getLsbD_eq
  intro i hi
  change _ = BitVec.getLsbD (a.extractLsb' 0 30 ++ raw.extractLsb' 0 2 : BitVec (30+2)) i
  rw [BitVec.getLsbD_append, pack, packBits, lowBits, BitVec.getLsbD_or, BitVec.getLsbD_shiftLeft, BitVec.getLsbD_setWidth]
  by_cases h : i < 2
  · simp [h, hi]
  · have : i - 2 < 30 := by omega
    simp [h, hi, this]

/-- R96 as a number. -/
theorem pack_toNat (a : Word) (raw : BitVec Config.adcWidth) :
    (pack a raw).toNat = (4 * a.toNat + raw.toNat % 4) % 2 ^ 32 := by
  rw [pack_eq_append]
  change BitVec.toNat (a.extractLsb' 0 30 ++ raw.extractLsb' 0 2 : BitVec (30+2)) = _
  rw [BitVec.toNat_append, BitVec.extractLsb'_toNat, BitVec.extractLsb'_toNat, ← Nat.shiftLeft_add_eq_or_of_lt (by omega), Nat.shiftLeft_eq]
  simp; omega

/-- A run of packs as a number: the start value is shifted out two bits a sample (R101, R102). -/
theorem foldl_pack_toNat (raws : List (BitVec Config.adcWidth)) (a : Word) :
  (raws.foldl pack a).toNat = (4 ^ raws.length * a.toNat + (raws.foldl (fun n raw => 4 * n + raw.toNat % 4) 0)) % 2^32 := by
  have gen : ∀ (raws : List (BitVec Config.adcWidth)) (a : Word) (n : Nat), a.toNat = n % 2^32 →
     (raws.foldl pack a).toNat = (raws.foldl (fun n raw => 4 * n + raw.toNat % 4) n) % 2^32 := by
    intro raws
    induction raws with
    | nil => intro a n h; simpa using h
    | cons r rs ih =>
      intro a n h
      simp only [List.foldl_cons]
      apply ih
      rw [pack_toNat, h]; omega
  have lin : ∀ (raws : List (BitVec Config.adcWidth)) (n : Nat), raws.foldl (fun n raw => 4 * n + raw.toNat % 4) n = 4 ^ raws.length * n + raws.foldl (fun n raw => 4 * n + raw.toNat % 4) 0 := by
    intro raws
    induction raws with
    | nil => intro n; simp
    | cons r rs ih =>
      intro n
      simp only [List.foldl_cons, List.length_cons]
      rw [ih, ih (4*0 + r.toNat % 4)]; ring
  rw [gen raws a a.toNat (by have := a.isLt; omega), lin]

/-- R12: the little-endian integer of eight bytes, byte by byte. -/
theorem leNat_take8 (b : List Byte) : leNat (b.take 8) =
    ∑ i ∈ Finset.range 8, (b.getD i 0).toNat * 2 ^ (8 * i) := by
  have gen : ∀ (n : Nat) (b : List Byte), leNat (b.take n) = ∑ i ∈ Finset.range n, (b.getD i 0).toNat * 2 ^ (8 * i) := by
    intro n
    induction n with
    | zero => intro b; simp [leNat]
    | succ n ih =>
      intro b
      rw [Finset.sum_range_succ']
      cases b with
      | nil => simp [leNat]
      | cons x xs =>
        simp only [List.take_succ_cons, leNat, ih xs, List.getD_cons_succ, List.getD_cons_zero, Finset.mul_sum]
        rw [Nat.add_comm]
        congr 1
        · exact Finset.sum_congr rfl fun i _ => by rw [Nat.mul_add, Nat.pow_add]; ring
        · simp
  exact gen 8 b

/-- A little-endian integer of `n` bytes is below 2^(8n). -/
theorem leNat_lt (b : List Byte) : leNat b < 2 ^ (8 * b.length) := by
  induction b with
  | nil => simp [leNat]
  | cons x xs ih =>
    have hx := x.isLt
    simp only [leNat, List.length_cons, Nat.mul_add, Nat.pow_add]
    omega

end Sys2Proof.Machine
end

