-- ==== Sys2Proof/Laws/Ops.lean ====
section
/-! SUPPORT. One lemma per shared operation that says once what it can do: when it answers a next state, and which. -/

namespace Sys2Proof.Machine

variable {s t : State}

theorem adcStart_next {k : State → State} :
    adcStart k s = .next t ↔ s.adc = .stopped ∧ t = k (logPort .adcStart { s with adc := .started }) := by
  unfold adcStart
  by_cases h : s.adc = .stopped <;> simp [h, eq_comm (a := t)]

theorem adcStop_next {k : State → State} :
    adcStop k s = .next t ↔ s.adc = .started ∧ t = k (logPort .adcStop { s with adc := .stopped }) := by
  unfold adcStop
  by_cases h : s.adc = .started <;> simp [h, eq_comm (a := t)]

theorem adcPoll_next {k : PollAnswer → State → State} :
    adcPoll k s = .next t ↔ s.adc = .started ∧
      t = k (Config.adcPollAnswer s.draws)
        (logPort (.adcPoll Config.tPoll (Config.adcPollAnswer s.draws)) { s with draws := s.draws + 1 }) := by
  unfold adcPoll
  by_cases h : s.adc = .started <;> simp [h, eq_comm (a := t)]

theorem adcRead_next {k : BitVec Config.adcWidth → State → State} :
    adcRead k s = .next t ↔ s.adc = .started ∧
      t = k (Config.adcRawValue s.draws)
        (logPort (.adcRead (Config.adcRawValue s.draws)) { s with draws := s.draws + 1 }) := by
  unfold adcRead
  by_cases h : s.adc = .started <;> simp [h, eq_comm (a := t)]

/-- An accepted or rejected command (R125). -/
theorem command_busy (body : State → State) (h : s.busy = true) :
    command body s = answer .written (rejectWrite s) := by simp [command, h]

theorem command_idle (body : State → State) (h : s.busy = false) :
    command body s = answer .written (body (openCommand s)) := by simp [command, h]

/-- What `S_POLL` does with an answer, R89. -/
theorem pollNext_cases (r : PollAnswer) (s : State) :
    (r = .success ∧ pollNext r s = { s with phase := .sRead }) ∨
    (r = .timeout ∧ s.limitEn = true ∧ s.rcnt = s.limit ∧ pollNext r s = { s with phase := .fail }) ∨
    (r = .timeout ∧ ¬(s.limitEn = true ∧ s.rcnt = s.limit) ∧
      pollNext r s = { s with rcnt := countRetry s.rcnt, phase := .sRStop }) := by
  cases r with
  | success => exact .inl ⟨rfl, rfl⟩
  | timeout =>
    by_cases h : s.limitEn = true ∧ s.rcnt = s.limit
    · exact .inr (.inl ⟨rfl, h.1, h.2, by simp [pollNext, h]⟩)
    · exact .inr (.inr ⟨rfl, h, by simp only [pollNext, h, if_false]⟩)

/-- The loop test of `S_DECORR`, R98. -/
theorem decorrNext_cases (s : State) :
    (s.bitcnt.toNat < 32 ∧ decorrNext s = { s with phase := .sStart }) ∨
    (¬ s.bitcnt.toNat < 32 ∧ s.op = .sample ∧ decorrNext s = finish .ok { s with word := s.acc }) ∨
    (¬ s.bitcnt.toNat < 32 ∧ s.op ≠ .sample ∧ decorrNext s = { s with phase := .hUpdate }) := by
  unfold decorrNext
  by_cases h : s.bitcnt.toNat < 32
  · simp [h]
  · by_cases ho : s.op = .sample <;> simp [h, ho]

/-- The loop test of `H_UPDATE`, R112. -/
theorem feedNext_cases (s : State) :
    (s.ebits.toNat < 256 ∧ feedNext s = beginWord s) ∨
    (¬ s.ebits.toNat < 256 ∧ feedNext s = { s with phase := .hFinal }) := by
  unfold feedNext
  by_cases h : s.ebits.toNat < 256 <;> simp [h]

/-- A read answers, errs or faults (R52, R131, R149); when it goes on, only the host's answer changes. -/
theorem execRd32_next {off : BitVec 8} (h : execRd32 off s = .next t) : ∃ b, t = answer b s := by
  unfold execRd32 at h
  split at h
  · split at h
    · cases h
    · exact ⟨_, by simpa using h.symm⟩
  · exact ⟨_, by simpa using h.symm⟩

end Sys2Proof.Machine
end

