-- ==== Sys2Proof/Laws/PerInstr.lean ====
section
/-! SUPPORT. Statements made instruction by instruction. `Encoding`: a well-formed instruction is what the decoder reads
from its encoding (R72, R79, R82). -/

namespace Sys2Proof.Laws.Encoding

/-- The family's statement about one instruction. -/
def Statement (i : Instr) : Prop := i.wellFormed = true → decode (encode i) = .ok i

theorem nop : Statement .nop := fun _ => rfl
theorem seedInit : Statement .seedInit := fun _ => rfl
theorem sampleWord : Statement .sampleWord := fun _ => rfl
theorem illegal (w : Word) : Statement (.illegal w) := fun h =>
  (decode_commandWrite w).trans (congrArg Except.ok (decodeCommand_illegal h))
theorem idle : Statement .idle := fun _ => rfl
theorem hInit : Statement .hInit := fun _ => rfl
theorem sStart : Statement .sStart := fun _ => rfl
theorem sSettle : Statement .sSettle := fun _ => rfl
theorem sPoll : Statement .sPoll := fun _ => rfl
theorem sRStop : Statement .sRStop := fun _ => rfl
theorem sRWait : Statement .sRWait := fun _ => rfl
theorem sRStart : Statement .sRStart := fun _ => rfl
theorem sRSettle : Statement .sRSettle := fun _ => rfl
theorem sRead : Statement .sRead := fun _ => rfl
theorem sStop : Statement .sStop := fun _ => rfl
theorem sDecorr : Statement .sDecorr := fun _ => rfl
theorem hUpdate : Statement .hUpdate := fun _ => rfl
theorem hFinal : Statement .hFinal := fun _ => rfl
theorem derive : Statement .derive := fun _ => rfl
theorem fail : Statement .fail := fun _ => rfl
theorem wr32Config (v : Word) : Statement (.wr32Config v) := fun _ => rfl
theorem rd32 (off : BitVec 8) : Statement (.rd32 off) := by
  intro h
  have ha : off.toNat % 4 = 0 := by simpa [Instr.wellFormed, offset_aligned] using h
  have hw : (⟨(off.toNat : Int), 4, .read⟩ : Access).inWindow = true := by
    simp only [Access.inWindow, Bool.and_eq_true, decide_eq_true_eq]
    have := off.isLt
    omega
  have hb : (⟨(off.toNat : Int), 4, .read⟩ : Access).answerable = true := by
    simp only [Access.answerable, Bool.and_eq_true, beq_iff_eq, true_and]
    omega
  simp [encode, decode, decodeAccess, hw, hb]

end Sys2Proof.Laws.Encoding
end

