-- ==== Sys2Proof/Laws/Step.lean ====
section
/-! SUPPORT. What a step can do, said once: the moves of the agents, the sequencer's step phase by phase, and what a host
access can leave. -/

namespace Sys2Proof.Machine

variable {s t : State}

theorem step_idle_agenda (h : s.agenda = []) : step s = sequencerStep s := by simp [step, h]

theorem step_event {e : Event} {rest : List Event} (h : s.agenda = e :: rest) :
    step s = runEvent e { s with agenda := rest } := by simp [step, h]

/-- A step is the sequencer's, or the first scheduled move. -/
theorem step_cases (h : step s = .next t) :
    (s.agenda = [] ∧ sequencerStep s = .next t) ∨
    ∃ rest,
      (s.agenda = .sequencer :: rest ∧ sequencerStep { s with agenda := rest } = .next t) ∨
      (∃ a, s.agenda = .access a :: rest ∧ hostAccess a { s with agenda := rest } = .next t) ∨
      (s.agenda = .waitIdle :: rest ∧ waitIdleStep { s with agenda := rest } = .next t) ∨
      (∃ r, s.agenda = .reset r :: rest ∧ t = platformReset r { s with agenda := rest }) := by
  cases ha : s.agenda with
  | nil => exact .inl ⟨rfl, by rwa [step_idle_agenda ha] at h⟩
  | cons e rest =>
    rw [step_event ha] at h
    refine .inr ⟨rest, ?_⟩
    cases e with
    | sequencer => exact .inl ⟨rfl, h⟩
    | access a => exact .inr (.inl ⟨a, rfl, h⟩)
    | waitIdle => exact .inr (.inr (.inl ⟨rfl, h⟩))
    | reset r =>
      refine .inr (.inr (.inr ⟨r, rfl, ?_⟩))
      simpa [runEvent] using h.symm

/-- The sequencer's step runs the micro-operation of its phase (R33, R79). -/
theorem sequencerStep_phase (s : State) : sequencerStep s =
    match s.phase with
    | .idle => execIdle s | .hInit => execHInit s | .sStart => execSStart s | .sSettle => execSSettle s
    | .sPoll => execSPoll s | .sRStop => execSRStop s | .sRWait => execSRWait s | .sRStart => execSRStart s
    | .sRSettle => execSRSettle s | .sRead => execSRead s | .sStop => execSStop s | .sDecorr => execSDecorr s
    | .hUpdate => execHUpdate s | .hFinal => execHFinal s | .derive => execDerive s | .fail => execFail s := by
  unfold sequencerStep
  rw [decodePhase_code]
  cases s.phase <;> rfl

/-- Every next state of the sequencer, phase by phase (R87–R99, R111–R114). -/
theorem sequencerStep_cases (ht : sequencerStep s = .next t) :
   (s.phase = .idle ∧ t = s) ∨
   (s.phase = .hInit ∧ t = beginWord { hashInit Config.ctxTag s with hctxOpen := true, ebits := 0 }) ∨
   (s.phase = .sStart ∧ t = { logPort .adcStart { s with adc := .started } with adcOn := true, rcnt := 0, phase := .sSettle }) ∨
   (s.phase = .sSettle ∧ t = { s with phase := .sPoll }) ∨
   (s.phase = .sPoll ∧ ∃ r, t = { logPort (.adcPoll Config.tPoll r) { s with draws := s.draws + 1 } with phase := t.phase, rcnt := t.rcnt } ∧
      ((r = .success ∧ t.phase = .sRead ∧ t.rcnt = s.rcnt) ∨ (r = .timeout ∧ s.limitEn = true ∧ s.rcnt = s.limit ∧ t.phase = .fail ∧ t.rcnt = s.rcnt) ∨ (r = .timeout ∧ ¬(s.limitEn = true ∧ s.rcnt = s.limit) ∧ t.phase = .sRStop ∧ t.rcnt = countRetry s.rcnt))) ∨
   (s.phase = .sRStop ∧ t = { logPort .adcStop { s with adc := .stopped } with adcOn := false, phase := .sRWait }) ∨
   (s.phase = .sRWait ∧ t = { s with phase := .sRStart }) ∨
   (s.phase = .sRStart ∧ t = { logPort .adcStart { s with adc := .started } with adcOn := true, phase := .sRSettle }) ∨
   (s.phase = .sRSettle ∧ t = { s with phase := .sPoll }) ∨
   (s.phase = .sRead ∧ ∃ v, t = packSample v (logPort (.adcRead v) { s with draws := s.draws + 1 })) ∨
   (s.phase = .sStop ∧ t = { logPort .adcStop { s with adc := .stopped } with adcOn := false, phase := .sDecorr }) ∨
   (s.phase = .sDecorr ∧ ((s.bitcnt.toNat < 32 ∧ t = { s with phase := .sStart }) ∨
    (¬ s.bitcnt.toNat < 32 ∧ s.op = .sample ∧ t = finish .ok { s with word := s.acc }) ∨
    (¬ s.bitcnt.toNat < 32 ∧ s.op ≠ .sample ∧ t = { s with phase := .hUpdate }))) ∨
   (s.phase = .hUpdate ∧ (((s.ebits + 32#9).toNat < 256 ∧ t = beginWord { hashUpdate (bytesLE s.acc) s with ebits := s.ebits + 32#9 }) ∨
     (¬ (s.ebits + 32#9).toNat < 256 ∧ t = { hashUpdate (bytesLE s.acc) s with ebits := s.ebits + 32#9, phase := .hFinal }))) ∨
   (s.phase = .hFinal ∧ t = { hashFinal Config.stateBytes s with ctxState := digest Config.stateBytes s, hctxOpen := false, phase := .derive }) ∨
   (s.phase = .derive ∧ t = finish .ok { s with counter := ctr s.ctxState, init := true, acc := 0x00000000#32 }) ∨
   (s.phase = .fail ∧ t = finish .hwUnavailable { logPort .adcStop { s with adc := .stopped } with adcOn := false, hctxOpen := false }) := by
  rw [sequencerStep_phase] at ht
  cases hp : s.phase <;> rw [hp] at ht <;> simp only at ht <;> simp only [reduceCtorEq, false_and, true_and, false_or, or_false]
  case sPoll =>
    simp only [execSPoll, adcPoll_next] at ht; obtain ⟨-, rfl⟩ := ht
    refine ⟨Config.adcPollAnswer s.draws, ?_⟩
    rcases pollNext_cases (Config.adcPollAnswer s.draws)
        (logPort (.adcPoll Config.tPoll (Config.adcPollAnswer s.draws)) { s with draws := s.draws + 1 }) with ⟨hr, h⟩ | ⟨hr, hl, hc, h⟩ | ⟨hr, hc, h⟩
    · rw [h]; exact ⟨rfl, .inl ⟨hr, rfl, rfl⟩⟩
    · rw [h]; exact ⟨rfl, .inr (.inl ⟨hr, hl, hc, rfl, rfl⟩)⟩
    · rw [h]; exact ⟨rfl, .inr (.inr ⟨hr, hc, rfl, rfl⟩)⟩
  case sDecorr =>
    have ht := (Host.Outcome.next.inj ht).symm
    rcases decorrNext_cases s with ⟨hc, h⟩ | ⟨hc, ho, h⟩ | ⟨hc, ho, h⟩ <;> simp only [wait, h] at ht
    · exact .inl ⟨hc, ht⟩
    · exact .inr (.inl ⟨hc, ho, ht⟩)
    · exact .inr (.inr ⟨hc, ho, ht⟩)
  case hUpdate =>
    have ht := (Host.Outcome.next.inj ht).symm
    rcases feedNext_cases { hashUpdate (bytesLE s.acc) s with ebits := s.ebits + 32#9 } with ⟨hc, h⟩ | ⟨hc, h⟩ <;> rw [h] at ht
    · exact .inl ⟨hc, ht⟩
    · exact .inr ⟨hc, ht⟩
  case sStart => simp only [execSStart, adcStart_next] at ht; exact ht.2
  case sRStart => simp only [execSRStart, adcStart_next] at ht; exact ht.2
  case sRStop => simp only [execSRStop, adcStop_next] at ht; exact ht.2
  case sStop => simp only [execSStop, adcStop_next] at ht; exact ht.2
  case fail => simp only [execFail, adcStop_next] at ht; exact ht.2
  case sRead => simp only [execSRead, adcRead_next] at ht; exact ⟨_, ht.2⟩
  all_goals exact (Host.Outcome.next.inj ht).symm


/-- What an accepted command leaves (R125–R129): one that ends at once, or a started operation. -/
theorem acceptedCommand_cases {c : Word} (hb : s.busy = false) (h : exec (decodeCommand c) s = .next t) :
    (∃ e, (e = .ok ∨ e = .illegalCmd) ∧ t = answer .written (finish e { openCommand s with op := .none })) ∨
    (s.init = true ∧ t = answer .written (finish .reentry { openCommand s with op := .seed })) ∨
    (s.init = false ∧ t = answer .written { openCommand s with op := .seed, busy := true, phase := .hInit }) ∨
    t = answer .written (beginWord { openCommand s with op := .sample, busy := true }) := by
  rcases decodeCommand_cases c with ⟨-, hd⟩ | ⟨-, hd⟩ | ⟨-, hd⟩ | ⟨-, hd⟩ <;> rw [hd] at h <;>
    simp only [exec, execNop, execSeedInit, execSampleWord, execIllegal, command_idle _ hb] at h <;>
    have h := (Host.Outcome.next.inj h).symm
  · exact .inl ⟨_, .inl rfl, h⟩
  · cases hi : s.init with
    | true => exact .inr (.inl ⟨rfl, by simpa [hi] using h⟩)
    | false => exact .inr (.inr (.inl ⟨rfl, by simpa [hi] using h⟩))
  · exact .inr (.inr (.inr h))
  · exact .inl ⟨_, .inr rfl, h⟩

/-- A rejected command sets `REJ` and nothing else (R125, R145). -/
theorem rejectedCommand_next {c : Word} (hb : s.busy = true) (h : exec (decodeCommand c) s = .next t) :
    t = answer .written (rejectWrite s) := by
  rcases decodeCommand_cases c with ⟨-, hd⟩ | ⟨-, hd⟩ | ⟨-, hd⟩ | ⟨-, hd⟩ <;> rw [hd] at h <;>
    simp only [exec, execNop, execSeedInit, execSampleWord, execIllegal, command_busy _ hb] at h <;>
    exact (Host.Outcome.next.inj h).symm

/-- What a host access can leave: an answer alone, a rejected write of `CMD` or `CONFIG`, a new `CONFIG`, a command that
ends at once, or a started operation (R52, R53, R125–R131). -/
theorem hostAccess_cases {a : Access} (h : hostAccess a s = .next t) :
    t = s ∨ (∃ b, t = answer b s) ∨
    (s.busy = true ∧ (∃ v, a.op = .write v ∧ (a.off = 0x00 ∨ a.off = 0x08)) ∧ t = answer .written (rejectWrite s)) ∨
    (s.busy = false ∧ (∃ v, a.op = .write v ∧ a.off = 0x08) ∧
      ∃ l e, t = answer .written { s with limit := l, limitEn := e }) ∨
    (s.busy = false ∧ (∃ v, a.op = .write v ∧ a.off = 0x00) ∧
      ((∃ e, (e = .ok ∨ e = .illegalCmd) ∧ t = answer .written (finish e { openCommand s with op := .none })) ∨
      (s.init = true ∧ t = answer .written (finish .reentry { openCommand s with op := .seed })) ∨
      (s.init = false ∧ t = answer .written { openCommand s with op := .seed, busy := true, phase := .hInit }) ∨
      t = answer .written (beginWord { openCommand s with op := .sample, busy := true }))) := by
  unfold hostAccess at h
  simp only [decode] at h
  rcases decodeAccess_cases a with
    ⟨-, hd⟩ | ⟨-, -, hd⟩ | ⟨-, -, ⟨-, hd⟩ | ⟨v, hv, h0, hd⟩ | ⟨v, hv, h8, hd⟩ | ⟨v, -, -, -, hd⟩⟩ <;> rw [hd] at h
  · exact .inl (Host.Outcome.next.inj h).symm
  · exact .inr (.inl ⟨_, (Host.Outcome.next.inj h).symm⟩)
  · exact .inr (.inl (execRd32_next h))
  · cases hb : s.busy with
    | true => exact .inr (.inr (.inl ⟨rfl, ⟨v, hv, .inl h0⟩, rejectedCommand_next hb h⟩))
    | false => exact .inr (.inr (.inr (.inr ⟨rfl, ⟨v, hv, h0⟩, acceptedCommand_cases hb h⟩)))
  · have h := (Host.Outcome.next.inj h).symm
    cases hb : s.busy with
    | true => exact .inr (.inr (.inl ⟨rfl, ⟨v, hv, .inr h8⟩, by simpa [hb] using h⟩))
    | false => exact .inr (.inr (.inr (.inl ⟨rfl, ⟨v, hv, h8⟩, _, _, by simpa [hb] using h⟩)))
  · exact .inr (.inl ⟨_, (Host.Outcome.next.inj h).symm⟩)

/-- A turn of `WAIT_IDLE` changes the host's answer and the schedule, and nothing else (R83). -/
theorem waitIdleStep_next (h : waitIdleStep s = .next t) : ∃ b l, t = answer b { s with agenda := l } := by
  unfold waitIdleStep at h
  have h := (Host.Outcome.next.inj h).symm
  split at h
  · exact ⟨_, _, h⟩
  · exact ⟨_, s.agenda, h⟩

end Sys2Proof.Machine
end

