-- ==== Sys2Proof/Tests/Slice0.lean ====
section
/-! SUPPORT. Tests whose expected results are the spec's: the smoke test of WellFormed, decoding of words written out from
spec/30_encoding.md, the vectors of spec/95_test_vectors.md L2 and the worked examples of the rules, and for every
obligation with hypotheses a witness that its hypotheses can be met. -/

open Sys2Proof

namespace Sys2Proof.Machine

/-! ### Small states -/

/-- The next state, if there is one. -/
def nextOf (r : Result) : Option State :=
  match r with
  | .next t => some t
  | .fault _ => none
  | .refused _ => none

/-- What `STATUS` reads after an instruction. -/
def statusAfter (i : Instr) (s : State) : Option Word := (nextOf (exec i s)).map statusWord

/-- What the host gets back. -/
def answerAfter (i : Instr) (s : State) : Option BusAnswer := (nextOf (exec i s)).map State.bus

/-- The reset state with one move scheduled. -/
def scheduled (e : Event) : State := { State.reset with agenda := [e] }

/-- A sample operation at the start of its word, with `LIMIT_EN`=1 and `LIMIT`=2. -/
def sampling : State :=
  { State.reset with busy := true, op := .sample, phase := .sStart, limit := 2, limitEn := true }

/-- A seed operation at its first phase, with `LIMIT_EN`=1 and `LIMIT`=2. -/
def seeding : State :=
  { State.reset with busy := true, op := .seed, phase := .hInit, limit := 2, limitEn := true }

/-- An unbounded sample operation that polls, one sample packed. -/
def polling : State :=
  { State.reset with
    busy := true, op := .sample, phase := .sPoll, bitcnt := 2, adcOn := true, adc := .started }

/-- A sample operation that reads: its last poll was answered `Success`. -/
def reading : State := { polling with phase := .sRead, ports := [.adcPoll Config.tPoll .success] }

/-- A sample operation whose word is complete. -/
def completing : State :=
  { State.reset with busy := true, op := .sample, phase := .sDecorr, bitcnt := 32, acc := 0x1B1B1B1B#32 }

/-- The example of R99: a seed at `FAIL` with two words fed and three samples packed. -/
def failing : State :=
  { State.reset with
    busy := true, op := .seed, phase := .fail, ebits := 64, bitcnt := 6, limit := 2, rcnt := 2, limitEn := true
    adcOn := true, adc := .started, hctxOpen := true }

/-- The context bytes of a seed whose 128 samples are all 0. -/
def seedBytes : List Byte := Config.hashFn Config.ctxTag none (seedMessage 8 []) Config.stateBytes

/-- A seed at `DERIVE` whose 128 samples are all 0. -/
def deriving0 : State :=
  { State.reset with
    busy := true, op := .seed, phase := .derive, bitcnt := 32, ebits := 256, htag := Config.ctxTag
    hmsg := seedMessage 8 [], ctxState := seedBytes }

/-- The machine after that seed. -/
def seeded : State :=
  { deriving0 with busy := false, done := true, init := true, phase := .idle, counter := ctr seedBytes }

/-- A failed `SAMPLE_WORD`: `STATUS` = 0x00002032 (R126). -/
def failedSample : State := { State.reset with done := true, err := .hwUnavailable, op := .sample }

/-- Vector C6: `BUSY`=1, `OP`=`SAMPLE`, `PHASE`=`S_SETTLE`. -/
def settling : State :=
  { State.reset with busy := true, op := .sample, phase := .sSettle, adcOn := true, adc := .started }

/-! ### WellFormed refuses the ill-formed -/

theorem test_wellFormed_refuses :
    (Instr.illegal 0x00000000#32).wellFormed = false ∧ (Instr.illegal 0x00000001#32).wellFormed = false ∧
    (Instr.illegal 0x00000002#32).wellFormed = false ∧ (Instr.rd32 0x06#8).wellFormed = false ∧
    (Instr.rd32 0x01#8).wellFormed = false := by decide

theorem test_wellFormed_admits :
    (Instr.illegal 0x00000101#32).wellFormed = true ∧ (Instr.rd32 0xFC#8).wellFormed = true ∧
    (Instr.wr32Config 0xFFFFFFFF#32).wellFormed = true ∧ Instr.fail.wellFormed = true := by decide

/-! ### Decoding: every constructor by a word written out from R72, R79 and R82 -/

theorem test_decode_commands :
    decodeTableWord 32 0b00000000000000000000000000000000 = some .nop ∧
    decodeTableWord 32 0b00000000000000000000000000000001 = some .seedInit ∧
    decodeTableWord 32 0b00000000000000000000000000000010 = some .sampleWord ∧
    decodeTableWord 32 0b00000000000000000000000000000011 = some (.illegal 0x00000003#32) ∧
    decodeTableWord 32 0b00000000000000000000000100000001 = some (.illegal 0x00000101#32) ∧
    decodeTableWord 32 0b10000000000000000000000000000010 = some (.illegal 0x80000002#32) := by decide

theorem test_decode_phases_low :
    decodeTableWord 4 0b0000 = some .idle ∧ decodeTableWord 4 0b0001 = some .hInit ∧
    decodeTableWord 4 0b0010 = some .sStart ∧ decodeTableWord 4 0b0011 = some .sSettle ∧
    decodeTableWord 4 0b0100 = some .sPoll ∧ decodeTableWord 4 0b0101 = some .sRStop ∧
    decodeTableWord 4 0b0110 = some .sRWait ∧ decodeTableWord 4 0b0111 = some .sRStart := by decide

theorem test_decode_phases_high :
    decodeTableWord 8 0b1000 = some .sRSettle ∧ decodeTableWord 8 0b1001 = some .sRead ∧
    decodeTableWord 8 0b1010 = some .sStop ∧ decodeTableWord 8 0b1011 = some .sDecorr ∧
    decodeTableWord 8 0b1100 = some .hUpdate ∧ decodeTableWord 8 0b1101 = some .hFinal ∧
    decodeTableWord 8 0b1110 = some .derive ∧ decodeTableWord 8 0b1111 = some .fail ∧
    decodeTableWord 8 0b10000 = none := by decide

theorem test_decode_accesses :
    decode (.access ⟨0x08, 4, .write 0x00010002#32⟩) = .ok (.wr32Config 0x00010002#32) ∧
    decode (.access ⟨0x00, 4, .read⟩) = .ok (.rd32 0x00#8) ∧
    decode (.access ⟨0x20, 4, .read⟩) = .ok (.rd32 0x20#8) ∧
    decode (.access ⟨0xFC, 4, .read⟩) = .ok (.rd32 0xFC#8) := ⟨rfl, rfl, rfl, rfl⟩

/-- R51, R52, R53, vectors C10, C11, C13: the accesses that are no instruction, by name. -/
theorem test_decode_rejects :
    decode (.access ⟨0x00, 1, .write 0x00000001#32⟩) = .error .busError ∧
    decode (.access ⟨0x06, 4, .read⟩) = .error .busError ∧
    decode (.access ⟨0x04, 8, .read⟩) = .error .busError ∧
    decode (.access ⟨0x0C, 4, .write 0x12345678#32⟩) = .error .writeIgnored ∧
    decode (.access ⟨0x3C, 4, .write 0#32⟩) = .error .writeIgnored ∧
    decode (.access ⟨0x100, 4, .read⟩) = .error .notSelected ∧
    decode (.access ⟨-4, 4, .read⟩) = .error .notSelected := ⟨rfl, rfl, rfl, rfl, rfl, rfl, rfl⟩

/-- An address at `BASE` + 0x0C is the access at offset 0x0C (R50). -/
theorem test_access_of_address : Access.ofAddress ((Config.base : Int) + 0x0C) 4 .read = ⟨0x0C, 4, .read⟩ := by
  simp [Access.ofAddress]

/-- The placed instruction is the one the next step runs, for each format (log 2). -/
theorem test_placed_word_runs :
    step (State.reset.withFetchWord 32 0x1) = exec .seedInit State.reset ∧
    step (State.reset.withFetchWord 32 0x105) = exec (.illegal 0x105#32) State.reset ∧
    step (State.reset.withFetchWord 8 0x0) = exec .idle State.reset ∧
    step (State.reset.withFetchWord 8 0x2) = exec .sStart (enterPhase .sStart State.reset) ∧
    step (State.reset.withFetchWord 8 0xF) = exec .fail (enterPhase .fail State.reset) :=
  ⟨rfl, rfl, rfl, rfl, rfl⟩

/-- Every phase placed after reset answers a next state. -/
theorem test_placed_phases_run :
    ∀ c : Fin 16, (nextOf (step (State.reset.withFetchWord 4 c.val))).isSome = true := by
  intro c; revert c; rw [Fin.forall_fin_succ]; simp only [Fin.forall_fin_succ]
  exact ⟨rfl, rfl, rfl, rfl, rfl, rfl, rfl, rfl, rfl, rfl, rfl, rfl, rfl, rfl, rfl, rfl, fun i => i.elim0⟩

/-! ### Vectors of L2.1 and L2.2 (R95, R96, R102) -/

/-- `PACK` over two-bit samples, in acquisition order. -/
def packed (samples : List (BitVec 2)) : Word := samples.foldl packBits 0

theorem test_pack_v1_v2 : packed (List.replicate 16 3) = 0xFFFFFFFF#32 ∧ packed (List.replicate 16 0) = 0x00000000#32 := by
  decide
theorem test_pack_v3 : packed [0, 1, 2, 3, 0, 1, 2, 3, 0, 1, 2, 3, 0, 1, 2, 3] = 0x1B1B1B1B#32 := by decide
theorem test_pack_v4 : packed [3, 2, 1, 0, 3, 2, 1, 0, 3, 2, 1, 0, 3, 2, 1, 0] = 0xE4E4E4E4#32 := by decide
theorem test_pack_v5 : packed (1 :: List.replicate 15 0) = 0x40000000#32 := by decide
theorem test_pack_v6 : packed (List.replicate 15 0 ++ [2]) = 0x00000002#32 := by decide
theorem test_pack_v7_v8 : packed (List.replicate 16 ((0xFFD#12).extractLsb' 0 2)) = 0x55555555#32 ∧
    packed (List.replicate 16 ((0xAAA#12).extractLsb' 0 2)) = 0xAAAAAAAA#32 := by decide
theorem test_pack_v9 : packed [0, 1, 0, 2, 0, 3, 1, 0, 1, 1, 1, 2, 1, 3, 2, 0] = 0x12345678#32 := by decide
theorem test_pack_intermediate : packed [3] = 0x3#32 ∧ packed [3, 1] = 0xD#32 ∧ packed [3, 1, 2] = 0x36#32 ∧
    packed [3, 1, 2, 0] = 0xD8#32 := by decide

/-- R102: from 0xFFFFFFFF, fifteen zero samples leave 0xC0000000 and sixteen leave 0. -/
theorem test_pack_forgets : (List.replicate 15 0).foldl packBits 0xFFFFFFFF#32 = 0xC0000000#32 ∧
    (List.replicate 16 0).foldl packBits 0xFFFFFFFF#32 = 0x00000000#32 := by decide

/-- R81, R95: whatever `ADC_WIDTH` is, the two bits kept are the raw value modulo 4. -/
theorem test_low_bits (raw : BitVec Config.adcWidth) : (lowBits raw).toNat = raw.toNat % 4 := by
  simp [lowBits, BitVec.extractLsb'_toNat]

/-! ### Vectors of L2.4 and L2.5 (R59, R115, R61) -/

theorem test_feed_h1_h2_h3 : bytesLE 0x12345678#32 = [0x78#8, 0x56#8, 0x34#8, 0x12#8] ∧
    bytesLE 0x40000000#32 = [0x00#8, 0x00#8, 0x00#8, 0x40#8] ∧
    bytesLE 0x1B1B1B1B#32 = [0x1B#8, 0x1B#8, 0x1B#8, 0x1B#8] := by decide

theorem test_ctr_k1_k2 : ctr (List.replicate 8 0x00#8) = 0xFFFFFFFFFFFFFFFF#64 ∧
    ctr (List.replicate 8 0xFF#8) = 0x0000000000000000#64 := by decide
theorem test_ctr_k3 : ctr [1#8, 2#8, 3#8, 4#8, 5#8, 6#8, 7#8, 8#8, 9#8] = 0xF7F8F9FAFBFCFDFE#64 := by decide
theorem test_ctr_k4_k5 : ctr (0x80#8 :: List.replicate 7 0) = 0xFFFFFFFFFFFFFF7F#64 ∧
    ctr (List.replicate 7 0 ++ [0x80#8]) = 0x7FFFFFFFFFFFFFFF#64 := by decide
theorem test_ctr_k6_k7 : ctr [0xEF#8, 0xBE#8, 0xAD#8, 0xDE#8, 0#8, 0#8, 0#8, 0#8] = 0xFFFFFFFF21524110#64 ∧
    ctr [0#8, 0#8, 0#8, 0#8, 0xFF#8, 0xFF#8, 0xFF#8, 0xFF#8] = 0x00000000FFFFFFFF#64 := by decide

/-- Row K3 through the window: `STATE_W[0]` = 0x04030201. -/
theorem test_stateW_k3 (s : State) (h : s.ctxState = [1#8, 2#8, 3#8, 4#8, 5#8, 6#8, 7#8, 8#8]) :
    stateW s 0 = 0x04030201#32 ∧ stateW s 1 = 0x08070605#32 := by
  have hb : 8 ≤ Config.stateBytes := by unfold Config.stateBytes; omega
  have h0 : ∀ i, i < 8 → ctxByte s i = s.ctxState.getD i 0 := fun i hi => by
    simp [ctxByte, show i < Config.stateBytes by omega]
  simp only [stateW, h0 _ (show 4 * 0 + 3 < 8 by omega), h0 _ (show 4 * 0 + 2 < 8 by omega), h0 _ (show 4 * 0 + 1 < 8 by omega),
    h0 _ (show 4 * 0 < 8 by omega), h0 _ (show 4 * 1 + 3 < 8 by omega), h0 _ (show 4 * 1 + 2 < 8 by omega),
    h0 _ (show 4 * 1 + 1 < 8 by omega), h0 _ (show 4 * 1 < 8 by omega), h]
  exact ⟨by decide, by decide⟩

/-! ### Commands: vectors of L2.6 and the examples of R126–R129 -/

theorem test_nop_c1_c14 : statusAfter .nop State.reset = some 0x00000002#32 ∧
    statusAfter .nop failedSample = some 0x00000002#32 ∧ statusWord failedSample = 0x00002032#32 := by decide
theorem test_nop_c6_rejected : statusAfter .nop settling = some 0x00002309#32 := by decide
theorem test_seedInit_starts : statusAfter .seedInit State.reset = some 0x00001101#32 := by decide
theorem test_seedInit_c5_reentry : statusAfter .seedInit seeded = some 0x00001026#32 := rfl
theorem test_sampleWord_p4 : statusAfter .sampleWord State.reset = some 0x00002201#32 := by decide
theorem test_sampleWord_beginWord :
    (nextOf (exec .sampleWord { State.reset with acc := 5, bitcnt := 32 })).map (fun t => (t.acc, t.bitcnt)) =
      some (0x00000000#32, 0#6) := by decide
theorem test_illegal_c2_c3_c4 : statusAfter (.illegal 0x00000003#32) State.reset = some 0x00000012#32 ∧
    (nextOf (hostAccess ⟨0x00, 4, .write 0x00000101#32⟩ State.reset)).map statusWord = some 0x00000012#32 ∧
    (nextOf (hostAccess ⟨0x00, 4, .write 0xFFFFFFFF#32⟩ State.reset)).map statusWord = some 0x00000012#32 := by decide
theorem test_illegal_rejected_while_busy : statusAfter (.illegal 0x00000003#32) settling = some 0x00002309#32 := by decide

/-! ### Register accesses: vectors C7–C13, C16 -/

theorem test_config_c7_c8 :
    (nextOf (exec (.wr32Config 0x00010002#32) State.reset)).map (fun t => (configWord t, t.limit, t.limitEn)) =
      some (0x00010002#32, 2#16, true) ∧
    (nextOf (exec (.wr32Config 0xFFFFFFFF#32) State.reset)).map configWord = some 0x0001FFFF#32 := by decide
theorem test_config_c9 : (nextOf (exec (.wr32Config 0x00010005#32) settling)).map (fun t => (configWord t, t.rej)) =
    some (0x00000000#32, true) := by decide
theorem test_rd32_c11_c12 : answerAfter (.rd32 0x06#8) State.reset = some .error ∧
    answerAfter (.rd32 0x20#8) State.reset = some (.data 0x00000000#32) ∧
    answerAfter (.rd32 0x00#8) failedSample = some (.data 0x00000000#32) ∧
    answerAfter (.rd32 0x04#8) failedSample = some (.data 0x00002032#32) := by decide
theorem test_rd32_c16 : exec (.rd32 0x14#8) State.reset = .fault (.contextReadBeforeInit 0x14#8) := rfl

/-- C10, C13: an 8-bit write to `CMD` and a write to `WORD` change nothing but the host's answer. -/
theorem test_other_accesses_c10_c13 :
    nextOf (hostAccess ⟨0x00, 1, .write 0x00000001#32⟩ settling) = some { settling with bus := .error } ∧
    nextOf (hostAccess ⟨0x0C, 4, .write 0x12345678#32⟩ settling) = some { settling with bus := .written } := ⟨rfl, rfl⟩

/-! ### Micro-operations: the examples of R87–R99 and R111–R114 -/

theorem test_idle : nextOf (exec .idle failedSample) = some failedSample := rfl
theorem test_sStart : (nextOf (exec .sStart { sampling with rcnt := 5 })).map (fun t => (t.rcnt, t.adcOn, t.phase)) =
    some (0#16, true, .sSettle) := by decide
theorem test_sSettle : (nextOf (exec .sSettle settling)).map State.phase = some .sPoll := by decide

/-- R89: `LIMIT`=2, `RCNT`=1 and a timeout; then another. -/
theorem test_sPoll_example :
    (fun t : State => (t.rcnt, t.phase)) (pollNext .timeout { failing with phase := .sPoll, rcnt := 1 }) = (2#16, .sRStop) ∧
    (pollNext .timeout { failing with phase := .sPoll }).phase = .fail ∧
    (pollNext .success { failing with phase := .sPoll }).phase = .sRead := by decide

/-- A4 (`LIMIT`=0: the first timeout fails), A8 (`LIMIT` without `LIMIT_EN` is ignored), and the saturation of R89. -/
theorem test_sPoll_bounds :
    (pollNext .timeout { sampling with limit := 0 }).phase = .fail ∧
    (pollNext .timeout { polling with limit := 5, rcnt := 5 }).phase = .sRStop ∧
    (pollNext .timeout { polling with rcnt := 0xFFFF }).rcnt = 0xFFFF#16 := by decide

theorem test_sRStop : (nextOf (exec .sRStop polling)).map (fun t => (t.adcOn, t.phase, t.ports.length)) =
    some (false, .sRWait, 1) := by decide
theorem test_sRWait : (nextOf (exec .sRWait sampling)).map State.phase = some .sRStart := by decide
theorem test_sRStart : (nextOf (exec .sRStart { sampling with rcnt := 1 })).map (fun t => (t.rcnt, t.adcOn, t.phase)) =
    some (1#16, true, .sRSettle) := by decide
theorem test_sRSettle : (nextOf (exec .sRSettle settling)).map State.phase = some .sPoll := by decide

/-- R95: `ACC`=3, raw 0xFFD; `BITCNT` 2 becomes 4. -/
theorem test_sRead_example : packBits 0x00000003#32 ((0xFFD#12).extractLsb' 0 2) = 0x0000000D#32 ∧
    (packSample (BitVec.ofNat _ 0) reading).bitcnt = 4#6 ∧ (packSample (BitVec.ofNat _ 0) reading).phase = .sStop := by
  decide
theorem test_sStop : (nextOf (exec .sStop polling)).map (fun t => (t.adcOn, t.phase)) = some (false, .sDecorr) := by decide
theorem test_sDecorr_example :
    (nextOf (exec .sDecorr completing)).map (fun t => (t.word, t.phase, t.busy, t.done)) =
      some (0x1B1B1B1B#32, .idle, false, true) := by decide
theorem test_sDecorr_loop : (nextOf (exec .sDecorr { completing with bitcnt := 30 })).map State.phase = some .sStart ∧
    (nextOf (exec .sDecorr { completing with op := .seed })).map (fun t => (t.word, t.phase)) =
      some (0x00000000#32, .hUpdate) := by decide
theorem test_fail_example : (nextOf (exec .fail failing)).map (fun t => (statusWord t, progressWord t, t.hctxOpen)) =
    some (0x00001032#32, 0x00400006#32, false) := by decide
theorem test_fail_stuck : exec .fail sampling = .fault (.adcUnanswered .stop) := rfl

theorem test_hInit_example :
    (nextOf (exec .hInit { seeding with ebits := 64 })).map (fun t => (t.ebits, t.acc, t.bitcnt, t.phase)) =
      some (0#9, 0x00000000#32, 0#6, .sStart) := by decide
theorem test_hUpdate_example :
    (nextOf (exec .hUpdate { completing with acc := 0x12345678#32, ebits := 224 })).map (fun t => (t.hmsg, t.ebits, t.phase)) =
      some ([0x78#8, 0x56#8, 0x34#8, 0x12#8], 256#9, .hFinal) := by decide
theorem test_hUpdate_loop :
    (nextOf (exec .hUpdate { completing with ebits := 192 })).map (fun t => (t.ebits, t.bitcnt, t.phase)) =
      some (224#9, 0#6, .sStart) := by decide
theorem test_hFinal : (nextOf (exec .hFinal { deriving0 with phase := .hFinal, hctxOpen := true })).map
    (fun t => (t.hctxOpen, t.init, t.phase)) = some (false, false, .derive) := rfl
theorem test_derive_example :
    (nextOf (exec .derive { deriving0 with ctxState := [1#8, 2#8, 3#8, 4#8, 5#8, 6#8, 7#8, 8#8] })).map
      (fun t => (t.counter, t.init, t.phase)) = some (0xF7F8F9FAFBFCFDFE#64, true, .idle) := by decide

/-! ### The formats of R75–R77 -/

/-- R77, P2: `PROGRESS` = 0x01000020 and `STATUS` = 0x00001006 after a completed seed. -/
theorem test_formats_p2 : progressWord seeded = 0x01000020#32 ∧ statusWord seeded = 0x00001006#32 := ⟨rfl, rfl⟩

/-! ### Witnesses: the hypotheses of the statements can be met -/

theorem test_inv_sampling : Inv sampling where
  bitcnt_even := rfl
  bitcnt_le := by decide
  ebits_multiple := rfl
  ebits_le := by decide
  busy_iff := by decide
  idle_stopped := nofun
  open_seed := nofun
  init_counter := nofun
  rcnt_le := by decide
  adc_phase := rfl
  op_busy := by decide
  op_feeder := nofun
  running := by decide
  open_phase := by decide
  seed_once := nofun
  bitcnt_lt := by decide
  bitcnt_full := nofun
  ebits_lt := nofun
  ebits_full := by decide
  fail_bound := nofun
  read_ready := nofun
  state_length := List.length_replicate

theorem test_inv_seeding : Inv seeding where
  bitcnt_even := rfl
  bitcnt_le := by decide
  ebits_multiple := rfl
  ebits_le := by decide
  busy_iff := by decide
  idle_stopped := nofun
  open_seed := nofun
  init_counter := nofun
  rcnt_le := by decide
  adc_phase := rfl
  op_busy := by decide
  op_feeder := by decide
  running := by decide
  open_phase := by decide
  seed_once := by decide
  bitcnt_lt := nofun
  bitcnt_full := nofun
  ebits_lt := nofun
  ebits_full := by decide
  fail_bound := nofun
  read_ready := nofun
  state_length := List.length_replicate

theorem test_inv_reading : Inv reading where
  bitcnt_even := rfl
  bitcnt_le := by decide
  ebits_multiple := rfl
  ebits_le := by decide
  busy_iff := by decide
  idle_stopped := nofun
  open_seed := nofun
  init_counter := nofun
  rcnt_le := nofun
  adc_phase := rfl
  op_busy := by decide
  op_feeder := nofun
  running := by decide
  open_phase := by decide
  seed_once := nofun
  bitcnt_lt := by decide
  bitcnt_full := nofun
  ebits_lt := nofun
  ebits_full := by decide
  fail_bound := nofun
  read_ready := fun _ => rfl
  state_length := List.length_replicate

theorem test_inv_completing : Inv completing where
  bitcnt_even := rfl
  bitcnt_le := by decide
  ebits_multiple := rfl
  ebits_le := by decide
  busy_iff := by decide
  idle_stopped := nofun
  open_seed := nofun
  init_counter := nofun
  rcnt_le := nofun
  adc_phase := rfl
  op_busy := by decide
  op_feeder := nofun
  running := by decide
  open_phase := by decide
  seed_once := nofun
  bitcnt_lt := nofun
  bitcnt_full := nofun
  ebits_lt := nofun
  ebits_full := by decide
  fail_bound := nofun
  read_ready := nofun
  state_length := List.length_replicate

theorem test_inv_failing : Inv failing where
  bitcnt_even := rfl
  bitcnt_le := by decide
  ebits_multiple := rfl
  ebits_le := by decide
  busy_iff := by decide
  idle_stopped := nofun
  open_seed := by decide
  init_counter := nofun
  rcnt_le := by decide
  adc_phase := rfl
  op_busy := by decide
  op_feeder := nofun
  running := by decide
  open_phase := by decide
  seed_once := by decide
  bitcnt_lt := by decide
  bitcnt_full := nofun
  ebits_lt := by decide
  ebits_full := by decide
  fail_bound := by decide
  read_ready := nofun
  state_length := List.length_replicate

theorem test_seedBytes_length : seedBytes.length = Config.stateBytes := by simp [seedBytes, Config.hashFn]

theorem test_inv_deriving : Inv deriving0 where
  bitcnt_even := rfl
  bitcnt_le := by decide
  ebits_multiple := rfl
  ebits_le := by decide
  busy_iff := by decide
  idle_stopped := nofun
  open_seed := nofun
  init_counter := nofun
  rcnt_le := nofun
  adc_phase := rfl
  op_busy := by decide
  op_feeder := by decide
  running := by decide
  open_phase := by decide
  seed_once := by decide
  bitcnt_lt := nofun
  bitcnt_full := nofun
  ebits_lt := nofun
  ebits_full := by decide
  fail_bound := nofun
  read_ready := nofun
  state_length := test_seedBytes_length

theorem test_inv_seeded : Inv seeded where
  bitcnt_even := rfl
  bitcnt_le := by decide
  ebits_multiple := rfl
  ebits_le := by decide
  busy_iff := by decide
  idle_stopped := by decide
  open_seed := nofun
  init_counter := fun _ => rfl
  rcnt_le := nofun
  adc_phase := rfl
  op_busy := nofun
  op_feeder := nofun
  running := nofun
  open_phase := by decide
  seed_once := nofun
  bitcnt_lt := nofun
  bitcnt_full := nofun
  ebits_lt := nofun
  ebits_full := nofun
  fail_bound := nofun
  read_ready := nofun
  state_length := test_seedBytes_length

theorem test_dataInv_deriving : DataInv deriving0 where
  acc_eq := nofun
  tag_eq := nofun
  msg_building := nofun
  msg_final := fun _ => rfl
  state_derive := fun _ => rfl
  state_init := nofun

theorem test_dataInv_sampling : DataInv sampling where
  acc_eq := fun _ => rfl
  tag_eq := nofun
  msg_building := nofun
  msg_final := nofun
  state_derive := nofun
  state_init := nofun

/-- CommandWordsDecodeByWholeWord: words at the edges of the last clause. -/
theorem test_witness_CommandWordsDecodeByWholeWord :
    (0x00000003#32 ≠ 0x00000000#32 ∧ 0x00000003#32 ≠ 0x00000001#32 ∧ 0x00000003#32 ≠ 0x00000002#32) ∧
    (0xFFFFFFFF#32 ≠ 0x00000000#32 ∧ 0xFFFFFFFF#32 ≠ 0x00000001#32 ∧ 0xFFFFFFFF#32 ≠ 0x00000002#32) := by decide

/-- StepRunsDecodedInstruction, its three clauses. -/
theorem test_witness_StepRunsDecodedInstruction :
    ((scheduled (.access ⟨0x00, 4, .write 0x00000001#32⟩)).agenda = [.access ⟨0x00, 4, .write 0x00000001#32⟩] ∧
      decode (.access ⟨0x00, 4, .write 0x00000001#32⟩) = .ok .seedInit) ∧
    ((scheduled .sequencer).agenda = [.sequencer] ∧ decode (.phase (scheduled .sequencer).phase.code) = .ok .idle) ∧
    (sampling.agenda = [] ∧ decode (.phase sampling.phase.code) = .ok .sStart) :=
  ⟨⟨rfl, rfl⟩, ⟨rfl, rfl⟩, rfl, rfl⟩

/-- StepAnswersOtherAccesses: offsets −1 and 256; a narrow access at 0 and offset 255; writes at 0x04 and 0xFC. -/
theorem test_witness_StepAnswersOtherAccesses :
    (∀ a : Access, (scheduled (.access a)).agenda = [.access a]) ∧
    ((-1 : Int) < 0 ∧ (256 : Int) ≤ 256) ∧
    ((0 : Int) ≤ 0 ∧ (0 : Int) < 256 ∧ (1 ≠ 4 ∨ (0 : Int) % 4 ≠ 0)) ∧
    ((0 : Int) ≤ 255 ∧ (255 : Int) < 256 ∧ (4 ≠ 4 ∨ (255 : Int) % 4 ≠ 0)) ∧
    ((0 : Int) ≤ 0x04 ∧ (0x04 : Int) < 256 ∧ (0x04 : Int) % 4 = 0 ∧ (0x04 : Int) ≠ 0x00 ∧ (0x04 : Int) ≠ 0x08) ∧
    ((0 : Int) ≤ 0xFC ∧ (0xFC : Int) < 256 ∧ (0xFC : Int) % 4 = 0 ∧ (0xFC : Int) ≠ 0x00 ∧ (0xFC : Int) ≠ 0x08) :=
  ⟨fun _ => rfl, by decide⟩

/-- WaitIdlePollsBusy, both clauses. -/
theorem test_witness_WaitIdlePollsBusy :
    ({ sampling with agenda := [.waitIdle] }.agenda = [.waitIdle] ∧ { sampling with agenda := [.waitIdle] }.busy = true) ∧
    ((scheduled .waitIdle).agenda = [.waitIdle] ∧ (scheduled .waitIdle).busy = false) := ⟨⟨rfl, rfl⟩, rfl, rfl⟩

/-- ResetEventSetsRegisters: a reset during a seed, with the ADC and without. -/
theorem test_witness_ResetEventSetsRegisters :
    { failing with agenda := [.reset true] }.agenda = [.reset true] ∧
    { failing with agenda := [.reset false] }.agenda = [.reset false] := ⟨rfl, rfl⟩

/-- NopCompletesAtOnce, SampleWordStartsSampler, IllegalCommandReportsError, ConfigWriteSetsLimit and
StatusAfterImmediateCommands: `BUSY`=0, before and after a seed. -/
theorem test_witness_accepting_states : failedSample.busy = false ∧ seeded.busy = false ∧ seeded.init = true := ⟨rfl, rfl, rfl⟩

/-- SeedInitStartsOrRefuses, both clauses. -/
theorem test_witness_SeedInitStartsOrRefuses :
    (failedSample.busy = false ∧ failedSample.init = false) ∧ (seeded.busy = false ∧ seeded.init = true) :=
  ⟨⟨rfl, rfl⟩, rfl, rfl⟩

/-- WritesWhileBusyOnlySetRej, ConfigConstantWhileBusy and NoAccessDisturbsRunningOperation: an operation runs, and both a
host access and a step go on. -/
theorem test_witness_running_states : settling.busy = true ∧
    (nextOf (step settling)).isSome = true ∧ settling.agenda = [] ∧
    nextOf (hostAccess ⟨0x00, 4, .write 0x00000001#32⟩ settling) = some { settling with rej := true, bus := .written } :=
  ⟨rfl, rfl, rfl, rfl⟩

/-- ConfigReadsBackLowBits. -/
theorem test_witness_ConfigReadsBackLowBits : State.reset.busy = false ∧
    exec (.wr32Config 0xFFFFFFFF#32) State.reset =
      .next { State.reset with limit := 0xFFFF#16, limitEn := true, bus := .written } := ⟨rfl, rfl⟩

/-- ReadsOfPlainRegisters: the first and the last reserved offset. -/
theorem test_witness_ReadsOfPlainRegisters :
    (0x1C ≤ (0x1C#8).toNat ∧ (0x1C#8).toNat < 0x40 ∧ (0x1C#8).toNat % 4 = 0) ∧
    (0x1C ≤ (0x3C#8).toNat ∧ (0x3C#8).toNat < 0x40 ∧ (0x3C#8).toNat % 4 = 0) := by decide

/-- ReadsOfContext: after a seed, the first and the last k. -/
theorem test_witness_ReadsOfContext : seeded.init = true ∧ 0 < 48 ∧ 47 < 48 := ⟨rfl, by decide, by decide⟩

/-- ContextReadBeforeInitFaults: `STATE_W[0]` and `STATE_W[1]` are always within `STATE_BYTES`. -/
theorem test_witness_ContextReadBeforeInitFaults : State.reset.init = false ∧ 4 * 0 < Config.stateBytes ∧
    4 * 1 < Config.stateBytes := by
  refine ⟨rfl, ?_, ?_⟩ <;> unfold Config.stateBytes <;> omega

/-- MisalignedReadGetsBusError: the least and the greatest misaligned offset. -/
theorem test_witness_MisalignedReadGetsBusError : (0x01#8).toNat % 4 ≠ 0 ∧ (0xFF#8).toNat % 4 ≠ 0 := by decide

/-- ReadsHaveNoSideEffect. -/
theorem test_witness_ReadsHaveNoSideEffect : (⟨0x0C, 4, .read⟩ : Access).op = .read ∧
    hostAccess ⟨0x0C, 4, .read⟩ State.reset = .next { State.reset with bus := .data 0x00000000#32 } := ⟨rfl, rfl⟩

/-- CounterReadsComplementState and ContextImmutableOnceWritten. -/
theorem test_witness_context_written : Inv seeded ∧ seeded.init = true ∧ step seeded = .next seeded ∧
    ∀ r rest, seeded.agenda ≠ .reset r :: rest := ⟨test_inv_seeded, rfl, rfl, nofun⟩

/-- SStartClearsRetryCount, SRStartKeepsRetryCount; StopsClearAdcOn, SPollBranchesOnAnswer, SReadPacksTwoBits,
FailReportsHwUnavailable; UnansweredAdcTransactionFaults: the ADC stopped and started. -/
theorem test_witness_adc_states : sampling.adc = .stopped ∧ reading.adc = .started ∧ failing.adc = .started := ⟨rfl, rfl, rfl⟩

/-- SDecorrEndsOrContinuesWord: `BITCNT` 30 and 32, for a sample and for a seed. -/
theorem test_witness_SDecorrEndsOrContinuesWord :
    { completing with bitcnt := 30 }.bitcnt.toNat < 32 ∧ (32 ≤ completing.bitcnt.toNat ∧ completing.op = .sample) ∧
    (32 ≤ { completing with op := .seed }.bitcnt.toNat ∧ { completing with op := .seed }.op ≠ .sample) := by decide

/-- HUpdateFeedsWord: `EBITS` 192 and 224. -/
theorem test_witness_HUpdateFeedsWord : (192#9 + 32#9).toNat < 256 ∧ 256 ≤ (224#9 + 32#9).toNat := by decide

/-- CounterIsComplementOfLittleEndian and WordClosedForm. -/
theorem test_witness_lengths : 8 ≤ (List.replicate 8 0x80#8).length ∧
    (List.replicate 16 (BitVec.ofNat Config.adcWidth 3)).length = 16 := by simp

/-- UnboundedRetryCycles. -/
theorem test_witness_UnboundedRetryCycles :
    polling.phase = .sPoll ∧ polling.adc = .started ∧ polling.agenda = [] ∧ polling.limitEn = false := ⟨rfl, rfl, rfl, rfl⟩

/-- SeedContextClosedForm. -/
theorem test_witness_SeedContextClosedForm : Inv deriving0 ∧ DataInv deriving0 ∧ deriving0.phase = .derive :=
  ⟨test_inv_deriving, test_dataInv_deriving, rfl⟩

/-- SeedIsDeterministic. -/
theorem test_witness_SeedIsDeterministic : Inv deriving0 ∧ DataInv deriving0 ∧ deriving0.phase = .derive ∧
    sequencerStep deriving0 = .next { deriving0 with
      counter := ctr seedBytes, init := true, acc := 0x00000000#32, err := .ok, done := true, busy := false
      phase := .idle } := ⟨test_inv_deriving, test_dataInv_deriving, rfl, rfl⟩

/-- StepKeepsInvariants, StepKeepsDataInvariants, PortTransactionsAreDisciplined: a step that issues a transaction. -/
theorem test_witness_StepKeepsInvariants : Inv sampling ∧ DataInv sampling ∧
    step sampling = .next
      { sampling with adc := .started, adcOn := true, rcnt := 0, phase := .sSettle, ports := [.adcStart] } :=
  ⟨test_inv_sampling, test_dataInv_sampling, rfl⟩

/-- PortTransactionsAreDisciplined: a step that reads. -/
theorem test_witness_PortTransactionsAreDisciplined : Inv reading ∧
    (nextOf (step reading)).map (fun t => t.ports.length) = some 2 := ⟨test_inv_reading, rfl⟩

/-- ReachableStatesMeetInvariants: a state that a run reaches by a scheduled command. -/
theorem test_witness_ReachableStatesMeetInvariants :
    Reachable { State.reset with
      busy := true, op := .sample, phase := .sStart, agenda := [], bus := .written } :=
  .step (.schedule [.access ⟨0x00, 4, .write 0x00000002#32⟩] .reset) rfl

/-- SequencerNeverStuck. -/
theorem test_witness_SequencerNeverStuck : (Inv sampling ∧ AdcInStep sampling) ∧ (Inv failing ∧ AdcInStep failing) :=
  ⟨⟨test_inv_sampling, rfl⟩, test_inv_failing, rfl⟩

/-- WordChangesOnlyBySampleCompletion and OperationEndsByFinish: a step that completes a sample. -/
theorem test_witness_sample_completes : Inv completing ∧ completing.busy = true ∧
    step completing = .next
      { completing with word := 0x1B1B1B1B#32, err := .ok, done := true, busy := false, phase := .idle } ∧
    (0x1B1B1B1B#32 : Word) ≠ completing.word ∧ ∀ r rest, completing.agenda ≠ .reset r :: rest :=
  ⟨test_inv_completing, rfl, rfl, by decide, nofun⟩

/-- ContextWrittenOnlyByFeeder: a step that changes `INIT`. -/
theorem test_witness_ContextWrittenOnlyByFeeder :
    (nextOf (step deriving0)).map State.init = some true ∧ deriving0.init = false ∧
    ∀ r rest, deriving0.agenda ≠ .reset r :: rest := ⟨rfl, rfl, nofun⟩

/-- RejLifetime: `REJ` rises at a write while busy, and falls at an accepted command and at reset. -/
theorem test_witness_RejLifetime :
    (settling.rej = false ∧ (nextOf (step { settling with agenda := [.access ⟨0x08, 4, .write 0x00000000#32⟩] })).map State.rej =
      some true) ∧
    ((nextOf (step { scheduled (.access ⟨0x00, 4, .write 0x00000000#32⟩) with rej := true })).map State.rej = some false) ∧
    ((nextOf (step { scheduled (.reset true) with rej := true })).map State.rej = some false) := ⟨⟨rfl, rfl⟩, rfl, rfl⟩

/-- HwUnavailableOnlyAtBound: the step of `FAIL`. -/
theorem test_witness_HwUnavailableOnlyAtBound : Inv failing ∧ failing.err ≠ .hwUnavailable ∧
    (nextOf (step failing)).map State.err = some .hwUnavailable := ⟨test_inv_failing, by decide, rfl⟩

/-- BoundedSampleTerminates. -/
theorem test_witness_BoundedSampleTerminates : Inv sampling ∧ AdcInStep sampling ∧ sampling.agenda = [] ∧
    sampling.limitEn = true ∧ sampling.op = .sample ∧ sampling.phase = .sStart ∧ sampling.bitcnt = 0 :=
  ⟨test_inv_sampling, rfl, rfl, rfl, rfl, rfl, rfl⟩

/-- BoundedSeedTerminates. -/
theorem test_witness_BoundedSeedTerminates : Inv seeding ∧ AdcInStep seeding ∧ seeding.agenda = [] ∧
    seeding.limitEn = true ∧ seeding.phase = .hInit := ⟨test_inv_seeding, rfl, rfl, rfl, rfl⟩

end Sys2Proof.Machine
end

section
/-! PROOFS. The invariants of spec/10_state.md R48: every step of every agent keeps them, and they hold at reset, so they hold
in every reachable state. The proof goes by three classes of phases: `IDLE`, the phases of a word, and the feeder's others. -/

namespace Sys2Proof.Machine

variable {s t : State}

/-! ### What the invariants are in each class of phases -/

/-- The clauses of the invariants in which no phase is named. -/
structure RegistersOk (s : State) : Prop where
  bitcnt_even : s.bitcnt.toNat % 2 = 0
  bitcnt_le : s.bitcnt.toNat ≤ 32
  ebits_multiple : s.ebits.toNat % 32 = 0
  ebits_le : s.ebits.toNat ≤ 256
  init_counter : s.init = true → s.counter = ctr s.ctxState
  state_length : s.ctxState.length = Config.stateBytes

/-- What holds in every phase but `IDLE` (R24, R25, R34, R127). -/
structure Running (s : State) : Prop where
  busy : s.busy = true
  op_some : s.op ≠ .none
  done : s.done = false
  err : s.err = .ok
  seed_fresh : s.op = .seed → s.init = false

/-- What holds in every phase of a word: a seed has its hash context open and is still below 256 bits (R43, R112). -/
structure InWord (s : State) : Prop extends Running s where
  open_iff : s.hctxOpen = true ↔ s.op = .seed
  ebits_lt : s.op = .seed → s.ebits.toNat < 256

theorem Running.op_seed (h : Running s) (ho : s.op ≠ .sample) : s.op = .seed := by
  cases hop : s.op with
  | none => exact absurd hop h.op_some
  | seed => rfl
  | sample => exact absurd hop ho

theorem Inv.registersOk (h : Inv s) : RegistersOk s := { h with }

theorem Inv.phase_idle (h : Inv s) (hb : s.busy = false) : s.phase = .idle := by
  simpa [hb] using h.busy_iff

theorem Inv.phase_ne_idle (h : Inv s) (hb : s.busy = true) : s.phase ≠ .idle := h.busy_iff.mp hb

theorem Inv.toRunning (h : Inv s) (hp : s.phase ≠ .idle) : Running s where
  busy := h.busy_iff.mpr hp
  op_some := h.op_busy hp
  done := (h.running hp).1
  err := (h.running hp).2
  seed_fresh := h.seed_once hp

theorem Inv.inWord (h : Inv s) (hp : s.phase.building = true) : InWord s where
  toRunning := h.toRunning fun hi => by simp [hi, Phase.building] at hp
  open_iff := by simp [h.open_phase, hp]
  ebits_lt ho := h.ebits_lt ho hp

theorem inv_of_idle (hr : RegistersOk t) (hp : t.phase = .idle) (hb : t.busy = false) (ha : t.adcOn = false)
    (ho : t.hctxOpen = false) : Inv t :=
  { hr with
    busy_iff := by simp [hp, hb]
    idle_stopped := fun _ => ⟨ha, ho⟩
    open_seed := by simp [ho]
    rcnt_le := by simp [hp, Phase.counting]
    adc_phase := by simp [hp, ha, Phase.adcRuns]
    op_busy := by simp [hp]
    op_feeder := by simp [hp, Phase.feeder]
    running := by simp [hp]
    open_phase := by simp [hp, ho, Phase.building]
    seed_once := by simp [hp]
    bitcnt_lt := by simp [hp, Phase.beforePack]
    bitcnt_full := by simp [hp]
    ebits_lt := by simp [hp, Phase.building]
    ebits_full := by simp [hp]
    fail_bound := by simp [hp]
    read_ready := by simp [hp] }

/-- The phases of a word. The last four premises are about one phase or a few, so most cases meet them by having another. -/
theorem inv_of_inWord (hr : RegistersOk t) (hw : InWord t) (hp : t.phase.building = true)
    (adc_phase : t.adcOn = t.phase.adcRuns)
    (rcnt_le : t.limitEn = true → t.phase.counting = true → t.rcnt.toNat ≤ t.limit.toNat)
    (bitcnt_lt : t.phase.beforePack = true → t.bitcnt.toNat < 32)
    (word_full : t.phase = .hUpdate → t.op = .seed ∧ t.bitcnt.toNat = 32 := by nofun)
    (fail_bound : t.phase = .fail → t.limitEn = true ∧ t.rcnt = t.limit := by nofun)
    (read_ready : t.phase = .sRead → t.ports.head? = some (.adcPoll Config.tPoll .success) := by nofun) : Inv t := by
  have not_idle : t.phase ≠ .idle := fun hi => by simp [hi, Phase.building] at hp
  have feeder : t.phase.feeder = true → t.phase = .hUpdate := by revert hp; cases t.phase <;> decide
  exact
  { hr with
    busy_iff := by simp [hw.busy, not_idle]
    idle_stopped := fun hi => absurd hi not_idle
    open_seed := hw.open_iff.mp
    rcnt_le, adc_phase, bitcnt_lt, fail_bound, read_ready
    op_busy := fun _ => hw.op_some
    op_feeder := fun hf => (word_full (feeder hf)).1
    running := fun _ => ⟨hw.done, hw.err⟩
    open_phase := by simp [hw.open_iff, hp]
    seed_once := fun _ => hw.seed_fresh
    bitcnt_full := fun hu => (word_full hu).2
    ebits_lt := fun ho _ => hw.ebits_lt ho
    ebits_full := fun hf => by rcases hf with hf | hf <;> simp [hf, Phase.building] at hp }

/-- The feeder's phases outside a word: only a seed enters them, and only in `H_FINAL` is the hash context open. -/
theorem inv_of_feeder (hr : RegistersOk t) (hw : Running t) (hp : t.phase = .hInit ∨ t.phase = .hFinal ∨ t.phase = .derive)
    (op_seed : t.op = .seed) (adc_off : t.adcOn = false) (open_iff : t.hctxOpen = true ↔ t.phase = .hFinal)
    (ebits_full : t.phase = .hFinal ∨ t.phase = .derive → t.ebits.toNat = 256) : Inv t := by
  exact
  { hr with
    busy_iff := by rcases hp with hp | hp | hp <;> simp [hp, hw.busy]
    idle_stopped := by rcases hp with hp | hp | hp <;> simp [hp]
    open_seed := fun _ => op_seed
    rcnt_le := by rcases hp with hp | hp | hp <;> simp [hp, Phase.counting]
    adc_phase := by rcases hp with hp | hp | hp <;> simp [hp, adc_off, Phase.adcRuns]
    op_busy := fun _ => hw.op_some
    op_feeder := fun _ => op_seed
    running := fun _ => ⟨hw.done, hw.err⟩
    open_phase := by rcases hp with hp | hp | hp <;> simp [hp, open_iff, op_seed, Phase.building]
    seed_once := fun _ => hw.seed_fresh
    bitcnt_lt := by rcases hp with hp | hp | hp <;> simp [hp, Phase.beforePack]
    bitcnt_full := by rcases hp with hp | hp | hp <;> simp [hp]
    ebits_lt := by rcases hp with hp | hp | hp <;> simp [hp, Phase.building]
    ebits_full
    fail_bound := by rcases hp with hp | hp | hp <;> simp [hp]
    read_ready := by rcases hp with hp | hp | hp <;> simp [hp] }

/-! ### The counters -/

/-- Below the bound a retry stays within it (R38, R89). -/
theorem countRetry_le {r l : BitVec 16} (hle : r.toNat ≤ l.toNat) (hne : r ≠ l) : (countRetry r).toNat ≤ l.toNat := by
  have hne : r.toNat ≠ l.toNat := fun he => hne (BitVec.eq_of_toNat_eq he)
  rw [countRetry_toNat]
  omega

theorem bitcnt_add_two {c : BitVec 6} (h : c.toNat < 32) : (c + 2#6).toNat = c.toNat + 2 := by
  rw [BitVec.toNat_add]
  simp only [BitVec.toNat_ofNat]
  omega

theorem ebits_add_word {e : BitVec 9} (h : e.toNat < 256) : (e + 32#9).toNat = e.toNat + 32 := by
  rw [BitVec.toNat_add]
  simp only [BitVec.toNat_ofNat]
  omega

/-- A sample packed into a word that has room for it (R95). -/
theorem RegistersOk.addSample (h : RegistersOk s) (room : s.bitcnt.toNat < 32) :
    RegistersOk { s with bitcnt := s.bitcnt + 2#6 } := by
  have even := h.bitcnt_even
  have sum := bitcnt_add_two room
  exact { h with bitcnt_even := by simp only; omega, bitcnt_le := by simp only; omega }

/-- A word fed to a seed below 256 bits (R112). -/
theorem RegistersOk.addWord (h : RegistersOk s) (room : s.ebits.toNat < 256) :
    RegistersOk { s with ebits := s.ebits + 32#9 } := by
  have multiple := h.ebits_multiple
  have sum := ebits_add_word room
  exact { h with ebits_multiple := by simp only; omega, ebits_le := by simp only; omega }

/-! ### The agents' moves -/

/-- No invariant is about `REJ`, the host's answer or the schedule. -/
theorem Inv.of_unread (h : Inv s) (rej : Bool) (bus : BusAnswer) (agenda : List Event) :
    Inv { s with rej := rej, bus := bus, agenda := agenda } := { h with }

theorem inv_of_reset (r : Bool) (s : State) : Inv (platformReset r s) :=
  inv_of_idle ⟨rfl, Nat.zero_le _, rfl, Nat.zero_le _, nofun, List.length_replicate⟩ rfl rfl rfl rfl

theorem sequencerStep_keeps_inv (h : Inv s) (ht : sequencerStep s = .next t) : Inv t := by
  have hr := h.registersOk
  have running := h.toRunning
  have inWord := h.inWord
  have adc := h.adc_phase
  have bound := h.rcnt_le
  have room := h.bitcnt_lt
  rcases sequencerStep_cases ht with ⟨hp, rfl⟩ | ⟨hp, rfl⟩ | ⟨hp, rfl⟩ | ⟨hp, rfl⟩ | ⟨hp, r, ht, hpoll⟩ | ⟨hp, rfl⟩ |
    ⟨hp, rfl⟩ | ⟨hp, rfl⟩ | ⟨hp, rfl⟩ | ⟨hp, v, rfl⟩ | ⟨hp, rfl⟩ | ⟨hp, hloop⟩ | ⟨hp, hloop⟩ | ⟨hp, rfl⟩ | ⟨hp, rfl⟩ |
    ⟨hp, rfl⟩ <;> rw [hp] at running inWord adc bound room
  · -- IDLE
    exact h
  · -- H_INIT
    have seed : s.op = .seed := h.op_feeder (by rw [hp]; rfl)
    exact inv_of_inWord ⟨rfl, Nat.zero_le _, rfl, Nat.zero_le _, hr.init_counter, hr.state_length⟩
      { running nofun with open_iff := by simp [seed], ebits_lt := by simp } rfl adc (fun _ => nofun) (by simp)
  · -- S_START
    exact inv_of_inWord { hr with } { inWord rfl with } rfl rfl (by simp) room
  · -- S_SETTLE
    exact inv_of_inWord { hr with } { inWord rfl with } rfl adc bound room
  · -- S_POLL
    rcases hpoll with ⟨rfl, hq, hc⟩ | ⟨rfl, hl, hlim, hq, hc⟩ | ⟨rfl, hlim, hq, hc⟩ <;> rw [hq, hc] at ht <;> subst ht
    · exact inv_of_inWord { hr with } { inWord rfl with } rfl adc bound room (read_ready := fun _ => rfl)
    · exact inv_of_inWord { hr with } { inWord rfl with } rfl adc bound room (fail_bound := fun _ => ⟨hl, hlim⟩)
    · exact inv_of_inWord { hr with } { inWord rfl with } rfl adc
        (fun hl _ => countRetry_le (bound hl rfl) fun he => hlim ⟨hl, he⟩) room
  · -- S_R_STOP
    exact inv_of_inWord { hr with } { inWord rfl with } rfl rfl bound room
  · -- S_R_WAIT
    exact inv_of_inWord { hr with } { inWord rfl with } rfl adc bound room
  · -- S_R_START
    exact inv_of_inWord { hr with } { inWord rfl with } rfl rfl bound room
  · -- S_R_SETTLE
    exact inv_of_inWord { hr with } { inWord rfl with } rfl adc bound room
  · -- S_READ
    exact inv_of_inWord { hr.addSample (room rfl) with } { inWord rfl with } rfl adc bound nofun
  · -- S_STOP
    exact inv_of_inWord { hr with } { inWord rfl with } rfl rfl bound nofun
  · -- S_DECORR
    rcases hloop with ⟨hc, rfl⟩ | ⟨-, ho, rfl⟩ | ⟨hc, ho, rfl⟩
    · exact inv_of_inWord { hr with } { inWord rfl with } rfl adc (fun _ => nofun) (fun _ => hc)
    · refine inv_of_idle { hr with } rfl rfl adc ?_
      simpa [ho] using (inWord rfl).open_iff
    · have seed := (inWord rfl).op_seed ho
      exact inv_of_inWord { hr with } { inWord rfl with } rfl adc (fun _ => nofun) nofun
        (word_full := fun _ => ⟨seed, le_antisymm hr.bitcnt_le (not_lt.mp hc)⟩)
  · -- H_UPDATE
    have seed : s.op = .seed := h.op_feeder (by rw [hp]; rfl)
    have lt := (inWord rfl).ebits_lt seed
    have ok := hr.addWord lt
    rcases hloop with ⟨hc, rfl⟩ | ⟨hc, rfl⟩
    · exact inv_of_inWord { ok with bitcnt_even := rfl, bitcnt_le := Nat.zero_le _ }
        { inWord rfl with ebits_lt := fun _ => hc } rfl adc (fun _ => nofun) (by simp)
    · refine inv_of_feeder { ok with } { running nofun with } (.inr (.inl rfl)) seed adc ?_ fun _ => ?_
      · simpa [seed] using (inWord rfl).open_iff
      · exact le_antisymm ok.ebits_le (not_lt.mp hc)
  · -- H_FINAL
    have seed : s.op = .seed := h.op_feeder (by rw [hp]; rfl)
    exact inv_of_feeder
      { hr with init_counter := fun hi => by simp [(running nofun).seed_fresh seed] at hi
                state_length := by simp [digest, Config.hashFn] }
      { running nofun with } (.inr (.inr rfl)) seed adc (by simp) fun _ => h.ebits_full (.inl hp)
  · -- DERIVE
    refine inv_of_idle { hr with init_counter := fun _ => rfl } rfl rfl adc ?_
    simpa [hp, Phase.building] using h.open_phase
  · -- FAIL
    exact inv_of_idle { hr with } rfl rfl rfl rfl

theorem hostAccess_keeps_inv {a : Access} (h : Inv s) (ht : hostAccess a s = .next t) : Inv t := by
  have hr := h.registersOk
  rcases hostAccess_cases ht with rfl | ⟨b, rfl⟩ | ⟨-, -, rfl⟩ | ⟨hb, -, l, e, rfl⟩ | ⟨hb, -, hc⟩
  · exact h
  · exact h.of_unread s.rej b s.agenda
  · exact h.of_unread true .written s.agenda
  · have hp := h.phase_idle hb
    obtain ⟨ha, ho⟩ := h.idle_stopped hp
    exact inv_of_idle { hr with } hp hb ha ho
  · obtain ⟨ha, ho⟩ := h.idle_stopped (h.phase_idle hb)
    rcases hc with ⟨e, -, rfl⟩ | ⟨-, rfl⟩ | ⟨hi, rfl⟩ | rfl
    · exact inv_of_idle { hr with } rfl rfl ha ho
    · exact inv_of_idle { hr with } rfl rfl ha ho
    · exact inv_of_feeder { hr with } ⟨rfl, nofun, rfl, rfl, fun _ => hi⟩ (.inl rfl) rfl ha (by simp [ho]) (by simp)
    · exact inv_of_inWord { hr with bitcnt_even := rfl, bitcnt_le := Nat.zero_le _ }
        ⟨⟨rfl, nofun, rfl, rfl, nofun⟩, by simp [ho], nofun⟩ rfl ha (fun _ => nofun) (by simp)

theorem step_keeps_inv (h : Inv s) (ht : step s = .next t) : Inv t := by
  rcases step_cases ht with ⟨-, ht⟩ | ⟨rest, ⟨-, ht⟩ | ⟨a, -, ht⟩ | ⟨-, ht⟩ | ⟨r, -, rfl⟩⟩
  · exact sequencerStep_keeps_inv h ht
  · exact sequencerStep_keeps_inv (h.of_unread s.rej s.bus rest) ht
  · exact hostAccess_keeps_inv (h.of_unread s.rej s.bus rest) ht
  · obtain ⟨b, l, rfl⟩ := waitIdleStep_next ht
    exact h.of_unread s.rej b l
  · exact inv_of_reset r _

theorem inv_reset : Inv State.reset := inv_of_reset true State.reset

theorem inv_of_reachable (h : Reachable s) : Inv s := by
  induction h with
  | reset => exact inv_reset
  | @schedule s agenda _ ih => exact ih.of_unread s.rej s.bus agenda
  | step _ ht ih => exact step_keeps_inv ih ht

/-! ### The statements -/

/-- Settles O46, by the classes of phases: each move of an agent keeps the invariants. -/
theorem stepKeepsInvariants : Obligations.StepKeepsInvariants := fun _ _ => step_keeps_inv

/-- Settles O48, by induction on the run from reset. -/
theorem reachableStatesMeetInvariants : Obligations.ReachableStatesMeetInvariants :=
  fun _ h => (inv_of_reachable h).toInvariants48

theorem dataInv_reset : DataInv State.reset where
  acc_eq := nofun
  tag_eq := nofun
  msg_building := nofun
  msg_final := by decide
  state_derive := nofun
  state_init := nofun

/-- Settles O45. -/
theorem invariantsHoldAtReset : Obligations.InvariantsHoldAtReset := ⟨inv_reset, dataInv_reset, rfl⟩

end Sys2Proof.Machine
end

section
/-! PROOFS. What a step writes and what it leaves, register by register: the rules of spec/10_state.md on the registers of the
window, and on `BUSY` and `DONE`. -/

namespace Sys2Proof.Machine

variable {s t : State}

/-! ### What each agent may write -/

/-- Which registers the sequencer's step writes, and in which phase (R25–R31, R39, R40, R132). A step that leaves a register
as it is meets the register's clause by the default. -/
structure SequencerWrites (s t : State) : Prop where
  rej_eq : t.rej = s.rej := by rfl
  limit_eq : t.limit = s.limit := by rfl
  limitEn_eq : t.limitEn = s.limitEn := by rfl
  word : t.word ≠ s.word →
    s.phase = .sDecorr ∧ s.op = .sample ∧ ¬ s.bitcnt.toNat < 32 ∧ t.word = s.acc ∧ t.done = true := by exact absurd rfl
  ctxState : t.ctxState ≠ s.ctxState → s.phase = .hFinal := by exact absurd rfl
  counter : t.counter ≠ s.counter → s.phase = .derive := by exact absurd rfl
  init : t.init ≠ s.init → s.phase = .derive ∧ t.init = true := by exact absurd rfl
  busy : t.busy ≠ s.busy → t.done = true ∧ (t.err = .ok ∨ t.err = .hwUnavailable) := by exact absurd rfl

/-- What a move of the host leaves as it is: `WORD` and the context, and of a running operation `BUSY` and `CONFIG` too. -/
structure HostLeaves (s t : State) : Prop where
  word_eq : t.word = s.word := by rfl
  ctxState_eq : t.ctxState = s.ctxState := by rfl
  counter_eq : t.counter = s.counter := by rfl
  init_eq : t.init = s.init := by rfl
  running_eq : s.busy = true → t.busy = true ∧ t.limit = s.limit ∧ t.limitEn = s.limitEn

theorem sequencerStep_writes (ht : sequencerStep s = .next t) : SequencerWrites s t := by
  rcases sequencerStep_cases ht with ⟨-, rfl⟩ | ⟨-, rfl⟩ | ⟨-, rfl⟩ | ⟨-, rfl⟩ | ⟨-, r, ht, -⟩ | ⟨-, rfl⟩ | ⟨-, rfl⟩ |
    ⟨-, rfl⟩ | ⟨-, rfl⟩ | ⟨-, v, rfl⟩ | ⟨-, rfl⟩ | ⟨hp, ⟨-, rfl⟩ | ⟨hc, ho, rfl⟩ | ⟨-, -, rfl⟩⟩ |
    ⟨-, ⟨-, rfl⟩ | ⟨-, rfl⟩⟩ | ⟨hp, rfl⟩ | ⟨hp, rfl⟩ | ⟨-, rfl⟩
  any_goals exact {} -- the micro-operations that write none of these registers
  · rw [ht]; exact {} -- S_POLL
  · exact { word := fun _ => ⟨hp, ho, hc, rfl, rfl⟩, busy := fun _ => ⟨rfl, .inl rfl⟩ } -- S_DECORR at the end of a sample
  · exact { ctxState := fun _ => hp } -- H_FINAL
  · exact { counter := fun _ => hp, init := fun _ => ⟨hp, rfl⟩, busy := fun _ => ⟨rfl, .inl rfl⟩ } -- DERIVE
  · exact { busy := fun _ => ⟨rfl, .inr rfl⟩ } -- FAIL

theorem hostAccess_leaves {a : Access} (ht : hostAccess a s = .next t) : HostLeaves s t := by
  rcases hostAccess_cases ht with rfl | ⟨b, rfl⟩ | ⟨-, -, rfl⟩ | ⟨hb, -, l, e, rfl⟩ |
    ⟨hb, -, ⟨e, -, rfl⟩ | ⟨-, rfl⟩ | ⟨-, rfl⟩ | rfl⟩
  · exact { running_eq := fun hb => ⟨hb, rfl, rfl⟩ }
  · exact { running_eq := fun hb => ⟨hb, rfl, rfl⟩ }
  · exact { running_eq := fun hb => ⟨hb, rfl, rfl⟩ }
  all_goals exact { running_eq := fun hr => by simp [hb] at hr }

/-- What an access does to `REJ` (R27, R125, R130). -/
theorem hostAccess_rej {a : Access} (ht : hostAccess a s = .next t) :
    t.rej = s.rej ∨
    (s.busy = true ∧ t.rej = true ∧ ∃ v, a.op = .write v ∧ (a.off = 0x00 ∨ a.off = 0x08)) ∨
    (s.busy = false ∧ t.rej = false ∧ ∃ v, a.op = .write v ∧ a.off = 0x00) := by
  rcases hostAccess_cases ht with rfl | ⟨b, rfl⟩ | ⟨hb, hw, rfl⟩ | ⟨-, -, l, e, rfl⟩ |
    ⟨hb, hw, ⟨e, -, rfl⟩ | ⟨-, rfl⟩ | ⟨-, rfl⟩ | rfl⟩
  · exact .inl rfl
  · exact .inl rfl
  · exact .inr (.inl ⟨hb, rfl, hw⟩)
  · exact .inl rfl
  all_goals exact .inr (.inr ⟨hb, rfl, hw⟩)

/-- A step is a step of the sequencer, a move of the host, or a reset. -/
theorem step_writes (ht : step s = .next t) :
    SequencerWrites s t ∨ HostLeaves s t ∨
      ∃ r rest, s.agenda = .reset r :: rest ∧ t = platformReset r { s with agenda := rest } := by
  rcases step_cases ht with ⟨-, ht⟩ | ⟨rest, ⟨-, ht⟩ | ⟨a, -, ht⟩ | ⟨-, ht⟩ | ⟨r, ha, ht⟩⟩
  · exact .inl (sequencerStep_writes ht)
  · exact .inl { sequencerStep_writes ht with }
  · exact .inr (.inl { hostAccess_leaves ht with })
  · obtain ⟨b, l, rfl⟩ := waitIdleStep_next ht
    exact .inr (.inl { running_eq := fun hb => ⟨hb, rfl, rfl⟩ })
  · exact .inr (.inr ⟨r, rest, ha, ht⟩)

theorem step_writes_of_not_reset (ht : step s = .next t) (hr : ∀ r rest, s.agenda ≠ .reset r :: rest) :
    SequencerWrites s t ∨ HostLeaves s t := by
  rcases step_writes ht with hw | hw | ⟨r, rest, ha, -⟩
  · exact .inl hw
  · exact .inr hw
  · exact absurd ha (hr r rest)

/-- What a step does to `REJ`: a write of `CMD` or `CONFIG` and a reset may change it, nothing else does. -/
theorem step_rej (ht : step s = .next t) :
    t.rej = s.rej ∨
    (∃ a rest, s.agenda = .access a :: rest ∧
      ((s.busy = true ∧ t.rej = true ∧ ∃ v, a.op = .write v ∧ (a.off = 0x00 ∨ a.off = 0x08)) ∨
       (s.busy = false ∧ t.rej = false ∧ ∃ v, a.op = .write v ∧ a.off = 0x00))) ∨
    ∃ r rest, s.agenda = .reset r :: rest ∧ t.rej = false := by
  rcases step_cases ht with ⟨-, ht⟩ | ⟨rest, ⟨-, ht⟩ | ⟨a, ha, ht⟩ | ⟨-, ht⟩ | ⟨r, ha, rfl⟩⟩
  · exact .inl (sequencerStep_writes ht).rej_eq
  · exact .inl (sequencerStep_writes ht).rej_eq
  · exact (hostAccess_rej ht).imp_right fun hw => .inl ⟨a, rest, ha, hw⟩
  · obtain ⟨b, l, rfl⟩ := waitIdleStep_next ht
    exact .inl rfl
  · exact .inr (.inr ⟨r, rest, ha, rfl⟩)

/-! ### The statements -/

/-- Settles O51: the sequencer writes `WORD` only in `S_DECORR`, the host never does, and reset clears it. -/
theorem wordChangesOnlyBySampleCompletion : Obligations.WordChangesOnlyBySampleCompletion := by
  intro s t hi ht hne
  rcases step_writes ht with hw | hw | ⟨r, rest, ha, rfl⟩
  · obtain ⟨hp, ho, hc, hword, hdone⟩ := hw.word hne
    exact .inl ⟨hp, ho, le_antisymm hi.bitcnt_le (not_lt.mp hc), hword, hdone⟩
  · exact absurd hw.word_eq hne
  · exact .inr ⟨r, rest, ha, rfl⟩

/-- Settles O52: of the sequencer's micro-operations only `H_FINAL` and `DERIVE` write the context, and the host never does. -/
theorem contextWrittenOnlyByFeeder : Obligations.ContextWrittenOnlyByFeeder := by
  intro s t ht hr
  rcases step_writes_of_not_reset ht hr with hw | hw
  · exact ⟨hw.ctxState, hw.counter, hw.init⟩
  · exact ⟨absurd hw.ctxState_eq, absurd hw.counter_eq, absurd hw.init_eq⟩

/-- Settles O53: `H_FINAL` and `DERIVE` are phases of a seed, which runs only while `INIT`=0. -/
theorem contextImmutableOnceWritten : Obligations.ContextImmutableOnceWritten := by
  intro s t hi hinit ht hr
  obtain ⟨state_writer, counter_writer, init_writer⟩ := contextWrittenOnlyByFeeder s t ht hr
  have not_feeder : s.phase.feeder ≠ true := fun hf => by
    have running : s.phase ≠ .idle := fun hp => by simp [hp, Phase.feeder] at hf
    simpa [hinit] using hi.seed_once running (hi.op_feeder hf)
  have not_final : s.phase ≠ .hFinal := fun hp => not_feeder (by rw [hp]; rfl)
  have not_derive : s.phase ≠ .derive := fun hp => not_feeder (by rw [hp]; rfl)
  have init_kept : t.init = s.init := not_not.mp fun hne => not_derive (init_writer hne).1
  have t_init : t.init = true := init_kept.trans hinit
  exact ⟨t_init, not_not.mp (mt state_writer not_final), not_not.mp (mt counter_writer not_derive),
    (step_keeps_inv hi ht).init_counter t_init⟩

/-- Settles O55: the sequencer leaves `REJ`, and of the host's accesses only writes of `CMD` and `CONFIG` touch it. -/
theorem rejLifetime : Obligations.RejLifetime := by
  intro s t ht
  rcases step_rej ht with he | ⟨a, rest, ha, ⟨hb, hrej, v, hv, ho⟩ | ⟨hb, hrej, v, hv, ho⟩⟩ | ⟨r, rest, ha, hrej⟩
  · rw [he]
    exact ⟨fun hf htrue => by simp [hf] at htrue, fun htrue hf => by simp [hf] at htrue⟩
  · exact ⟨fun _ _ => ⟨hb, a, rest, v, ha, hv, ho⟩, fun _ hf => by simp [hrej] at hf⟩
  · exact ⟨fun _ htrue => by simp [hrej] at htrue, fun _ _ => .inl ⟨hb, a, rest, v, ha, hv, ho⟩⟩
  · exact ⟨fun _ htrue => by simp [hrej] at htrue, fun _ _ => .inr ⟨r, rest, ha⟩⟩

/-- Settles O57: the sequencer never writes `CONFIG`, and the host's write is rejected while `BUSY`=1. -/
theorem configConstantWhileBusy : Obligations.ConfigConstantWhileBusy := by
  intro s t hb ht hr
  rcases step_writes_of_not_reset ht hr with hw | hw
  · exact ⟨hw.limit_eq, hw.limitEn_eq⟩
  · exact (hw.running_eq hb).2

/-- Settles O58: only a finishing micro-operation clears `BUSY`; the rest is what the invariants say of `IDLE`. -/
theorem operationEndsByFinish : Obligations.OperationEndsByFinish := by
  intro s t hi hb ht hend hr
  have ti := step_keeps_inv hi ht
  have idle := ti.phase_idle hend
  obtain ⟨adc_off, closed⟩ := ti.idle_stopped idle
  have s_done := (hi.running (hi.phase_ne_idle hb)).1
  rcases step_writes_of_not_reset ht hr with hw | hw
  · obtain ⟨t_done, t_err⟩ := hw.busy (by simp [hb, hend])
    exact ⟨s_done, t_done, idle, adc_off, closed, t_err⟩
  · simp [(hw.running_eq hb).1] at hend

end Sys2Proof.Machine
end

section
/-! PROOFS. What the host's reads give (spec/10_state.md R31–R43), the values after reset (R47), and which instruction a step
runs (R33). -/

namespace Sys2Proof.Machine

/-! ### Reads -/

theorem exec_rd32 (s : State) (off : BitVec 8) : exec (.rd32 off) s = execRd32 off s := rfl

/-- A read at an aligned offset, of the context only where `INIT`=1, answers with the register (R131). -/
theorem exec_rd32_answers {s : State} {off : BitVec 8} (ha : off.toNat % 4 = 0)
    (hc : readsContext off = true → s.init = true) :
    exec (.rd32 off) s = .next { s with bus := .data (readRegister s off) } := by
  have aligned : aligned off = true := by simp [aligned, offset_aligned, ha]
  have allowed : (readsContext off && !s.init) = false := by
    cases hr : readsContext off with
    | false => rfl
    | true => simp [hc hr]
  simp [exec_rd32, execRd32, aligned, allowed, answer]

/-- What the host sees of a read, without the state after it (R52, R131, R149). -/
theorem hostSees_eq (s : State) (off : BitVec 8) : hostSees s off =
    if aligned off then if readsContext off && !s.init then none else some (.data (readRegister s off))
    else some .error := by
  rw [hostSees, exec_rd32, execRd32]
  split_ifs <;> rfl

theorem stateWOffset_toNat {k : Nat} (hk : k < 48) : (BitVec.ofNat 8 (0x40 + 4 * k)).toNat = 0x40 + 4 * k := by
  rw [BitVec.toNat_ofNat]
  omega

theorem stateWIndex_offset {k : Nat} (hk : k < 48) : stateWIndex (BitVec.ofNat 8 (0x40 + 4 * k)) = k := by
  rw [stateWIndex, stateWOffset_toNat hk]
  omega

/-- The offsets of the `STATE_W` words lie above every other register's (R21). -/
theorem stateWOffset_ne {k : Nat} (hk : k < 48) {o : BitVec 8} (ho : o.toNat < 0x40) :
    BitVec.ofNat 8 (0x40 + 4 * k) ≠ o := by
  rintro rfl
  rw [stateWOffset_toNat hk] at ho
  omega

theorem readRegister_stateW (s : State) {k : Nat} (hk : k < 48) :
    readRegister s (BitVec.ofNat 8 (0x40 + 4 * k)) = stateW s k := by
  simp [readRegister, stateWOffset_ne hk, stateWIndex_offset hk, stateWOffset_toNat hk]

/-- Reading a `STATE_W` word needs `INIT`=1 exactly where it holds a byte of `STATE` (R149). -/
theorem readsContext_stateW {k : Nat} (hk : k < 48) :
    readsContext (BitVec.ofNat 8 (0x40 + 4 * k)) = decide (4 * k < Config.stateBytes) := by
  simp [readsContext, stateWOffset_ne hk, stateWIndex_offset hk, stateWOffset_toNat hk]

/-- Settles O20: the context's registers are plain reads, and the bytes of a `STATE_W` word are the context's. -/
theorem readsOfContext : Obligations.ReadsOfContext := by
  refine fun s => ⟨fun hi => ⟨exec_rd32_answers rfl fun _ => hi, exec_rd32_answers rfl fun _ => hi⟩, fun k hk hread => ?_⟩
  have aligned : (BitVec.ofNat 8 (0x40 + 4 * k)).toNat % 4 = 0 := by rw [stateWOffset_toNat hk]; omega
  have allowed (hr : readsContext (BitVec.ofNat 8 (0x40 + 4 * k)) = true) : s.init = true :=
    hread.resolve_right (by simpa [readsContext_stateW hk] using hr)
  refine ⟨stateW s k, ?_, fun j hj => stateW_byte s k j hj⟩
  rw [exec_rd32_answers aligned allowed, readRegister_stateW s hk]

/-- Settles O25: no register of the window is made of the internal ones. -/
theorem internalRegistersStayHidden : Obligations.InternalRegistersStayHidden := by
  intro s acc rcnt adcOn hctxOpen htag hmsg off
  rw [hostSees_eq, hostSees_eq]
  rfl

/-! ### Steps and reset -/

/-- Settles O4: an access or a phase code that decodes to an instruction is carried out as that instruction. -/
theorem stepRunsDecodedInstruction : Obligations.StepRunsDecodedInstruction := by
  refine ⟨fun s a rest i ha hd => ?_, fun s rest i ha hd => ?_, fun s i ha hd => ?_⟩
  · rw [step_event ha, runEvent, hostAccess, hd]
  · rw [step_event ha]
    cases hd
    rfl
  · rw [step_idle_agenda ha]
    cases hd
    rfl

/-- Settles O7. -/
theorem resetLeavesSpecifiedValues : Obligations.ResetLeavesSpecifiedValues := by
  unfold Obligations.ResetLeavesSpecifiedValues
  decide

/-- Settles O26. -/
theorem idleKeepsAllState : Obligations.IdleKeepsAllState := fun _ => rfl

end Sys2Proof.Machine
end

section
/-! PROOFS. The host's accesses and the block's ports (spec/20_memory.md): accesses that are no instruction (R51–R53), reads
(R54), the counter as the complement of the state (R61), and the order of the port transactions (R56, R62). -/

namespace Sys2Proof.Machine

variable {s t : State} {a : Access}

/-! ### Accesses that are no instruction -/

theorem inWindow_iff : a.inWindow = true ↔ 0 ≤ a.off ∧ a.off < 256 := by simp [Access.inWindow]

theorem answerable_iff : a.answerable = true ↔ a.size = 4 ∧ a.off % 4 = 0 := by simp [Access.answerable]

/-- The step of an access that the decoder rejects (R51–R53). -/
theorem step_rejectAccess {rest : List Event} {r : Reject} (ha : s.agenda = .access a :: rest)
    (hd : decodeAccess a = .error r) : step s = .next (rejectAccess r { s with agenda := rest }) := by
  rw [step_event ha, runEvent, hostAccess, decode, hd]

/-- Settles O5: the decoder rejects each of the three accesses, by the order of R153. -/
theorem stepAnswersOtherAccesses : Obligations.StepAnswersOtherAccesses := by
  refine fun s a rest ha => ⟨fun outside => ?_, fun h0 h256 bad => ?_, fun v h0 h256 size aligned write ne0 ne8 => ?_⟩
  · have window : ¬ a.inWindow = true := by rw [inWindow_iff]; omega
    exact step_rejectAccess (r := .notSelected) ha (by simp [decodeAccess, window])
  · have window : a.inWindow = true := inWindow_iff.mpr ⟨h0, h256⟩
    have answerable : ¬ a.answerable = true := by rw [answerable_iff]; omega
    exact step_rejectAccess (r := .busError) ha (by simp [decodeAccess, window, answerable])
  · have window : a.inWindow = true := inWindow_iff.mpr ⟨h0, h256⟩
    have answerable : a.answerable = true := answerable_iff.mpr ⟨size, aligned⟩
    exact step_rejectAccess (r := .writeIgnored) ha (by simp [decodeAccess, window, answerable, write, ne0, ne8])

/-! ### Reads -/

/-- A read access leaves all but the host's answer, whatever it decodes to (R51, R52, R54). -/
theorem hostAccess_read_next (hr : a.op = .read) (ht : hostAccess a s = .next t) : ∃ b, t = answer b s := by
  rcases hostAccess_cases ht with rfl | answered | ⟨-, ⟨v, hw, -⟩, -⟩ | ⟨-, ⟨v, hw, -⟩, -⟩ | ⟨-, ⟨v, hw, -⟩, -⟩
  · exact ⟨t.bus, rfl⟩
  · exact answered
  all_goals simp [hr] at hw

/-- What the host was last answered shows in no register. -/
@[simp] theorem hostSees_answer (b : BusAnswer) (s : State) (off : BitVec 8) :
    hostSees (answer b s) off = hostSees s off := by
  rw [hostSees_eq, hostSees_eq]
  rfl

/-- Settles O23: a read changes the host's answer alone, and no register shows it. -/
theorem readsHaveNoSideEffect : Obligations.ReadsHaveNoSideEffect := by
  intro s t a hr ht
  obtain ⟨b, rfl⟩ := hostAccess_read_next hr ht
  exact ⟨by simp [SameBlock], by simp [SameOutside], hostSees_answer b s⟩

/-! ### The counter and the state -/

/-- Bit `i` of a little-endian integer is bit `i % 8` of byte `i / 8` (R12). -/
theorem leNat_testBit (b : List Byte) (i : Nat) : (leNat b).testBit i = (b.getD (i / 8) 0).getLsbD (i % 8) := by
  induction b generalizing i with
  | nil => simp [leNat]
  | cons x xs ih =>
    have split : leNat (x :: xs) = 2 ^ 8 * leNat xs + x.toNat := by rw [leNat]; omega
    rw [split, Nat.testBit_two_pow_mul_add _ x.isLt]
    by_cases h : i < 8
    · simp [h, Nat.div_eq_of_lt h, Nat.mod_eq_of_lt h, BitVec.getLsbD]
    · obtain ⟨j, rfl⟩ := Nat.exists_eq_add_of_le' (not_lt.mp h)
      simp [ih]

theorem le64_getLsbD (b : List Byte) {i : Nat} (hi : i < 64) :
    (le64 b).getLsbD i = (b.getD (i / 8) 0).getLsbD (i % 8) := by
  have byte : i / 8 < 8 := by omega
  rw [le64, BitVec.getLsbD_ofNat, leNat_testBit]
  simp [hi, byte]

/-- Bit `i` of `STATE_W[k]` (R40). -/
theorem stateW_getLsbD (s : State) (k : Nat) {i : Nat} (hi : i < 32) :
    (stateW s k).getLsbD i = (ctxByte s (4 * k + i / 8)).getLsbD (i % 8) := by
  rw [← stateW_byte s k (i / 8) (by omega), BitVec.getLsbD_extractLsb', Nat.div_add_mod]
  simp [Nat.mod_lt]

/-- The half `k` of a counter made of `STATE` is the complement of `STATE_W[k]` (R61, R115). -/
theorem counter_half (h : s.counter = ctr s.ctxState) {k : Nat} (hk : k < 2) :
    s.counter.extractLsb' (32 * k) 32 = ~~~ stateW s k := by
  apply BitVec.eq_of_getLsbD_eq
  intro i hi
  have bit : 32 * k + i < 64 := by omega
  have byte : (32 * k + i) / 8 = 4 * k + i / 8 := by omega
  have low : (32 * k + i) % 8 = i % 8 := by omega
  have within : 4 * k + i / 8 < Config.stateBytes := by unfold Config.stateBytes; omega
  rw [BitVec.getLsbD_extractLsb', h, ctr, BitVec.getLsbD_not, le64_getLsbD _ bit, byte, low, BitVec.getLsbD_not,
    stateW_getLsbD s k hi]
  simp [hi, bit, ctxByte, within]

/-- After the seed every aligned read answers with the register (R131, R149). -/
theorem hostSees_of_init (hi : s.init = true) {off : BitVec 8} (ha : off.toNat % 4 = 0) :
    hostSees s off = some (.data (readRegister s off)) := by
  rw [hostSees, exec_rd32_answers ha fun _ => hi]

/-- Settles O24: under the invariants the counter is made of `STATE`, half by half. -/
theorem counterReadsComplementState : Obligations.CounterReadsComplementState := by
  intro s h hi
  have counter := h.init_counter hi
  have low : readRegister s 0x14#8 = ~~~ stateW s 0 := counter_half counter (k := 0) (by decide)
  have high : readRegister s 0x18#8 = ~~~ stateW s 1 := counter_half counter (k := 1) (by decide)
  refine ⟨stateW s 0, stateW s 1, hostSees_of_init hi rfl, hostSees_of_init hi rfl, ?_, ?_⟩
  · rw [hostSees_of_init hi rfl, low]
  · rw [hostSees_of_init hi rfl, high]

/-! ### Port transactions -/

/-- A step from `s` to `t` issues the transaction `x`, and `x` keeps to the discipline of R56. A transaction meets the clauses
about the others by the default. -/
structure Issues (s t : State) (x : PortTx) : Prop where
  ports : t.ports = x :: s.ports
  busy : s.busy = true
  start : x = .adcStart → s.adcOn = false ∧ t.adcOn = true := by nofun
  stop : x = .adcStop → s.adcOn = true ∧ t.adcOn = false := by nofun
  poll : ∀ d r, x = .adcPoll d r → s.adcOn = true ∧ d = Config.tPoll := by nofun
  read : ∀ v, x = .adcRead v → s.adcOn = true ∧ s.ports.head? = some (.adcPoll Config.tPoll .success) := by nofun

/-- The micro-operations with a transaction issue one, in the phases that R56 asks for. -/
theorem sequencerStep_ports (h : Inv s) (ht : sequencerStep s = .next t) : t.ports = s.ports ∨ ∃ x, Issues s t x := by
  have busy := h.busy_iff.mpr
  have adc := h.adc_phase
  rcases sequencerStep_cases ht with ⟨-, rfl⟩ | ⟨hp, rfl⟩ | ⟨hp, rfl⟩ | ⟨-, rfl⟩ | ⟨hp, r, ht, -⟩ | ⟨hp, rfl⟩ | ⟨-, rfl⟩ |
    ⟨hp, rfl⟩ | ⟨-, rfl⟩ | ⟨hp, v, rfl⟩ | ⟨hp, rfl⟩ | ⟨-, ⟨-, rfl⟩ | ⟨-, -, rfl⟩ | ⟨-, -, rfl⟩⟩ |
    ⟨hp, ⟨-, rfl⟩ | ⟨-, rfl⟩⟩ | ⟨hp, rfl⟩ | ⟨-, rfl⟩ | ⟨hp, rfl⟩
  any_goals exact .inl rfl -- the micro-operations without a transaction
  all_goals
    right
    replace busy := busy (by simp [hp])
    rw [hp] at adc
  · exact ⟨_, { ports := rfl, busy }⟩ -- H_INIT
  · exact ⟨_, { ports := rfl, busy, start := fun _ => ⟨adc, rfl⟩ }⟩ -- S_START
  · exact ⟨.adcPoll Config.tPoll r, { ports := by rw [ht]; rfl, busy, poll := by rintro d r ⟨⟩; exact ⟨adc, rfl⟩ }⟩ -- S_POLL
  · exact ⟨_, { ports := rfl, busy, stop := fun _ => ⟨adc, rfl⟩ }⟩ -- S_R_STOP
  · exact ⟨_, { ports := rfl, busy, start := fun _ => ⟨adc, rfl⟩ }⟩ -- S_R_START
  · exact ⟨_, { ports := rfl, busy, read := fun _ _ => ⟨adc, h.read_ready hp⟩ }⟩ -- S_READ
  · exact ⟨_, { ports := rfl, busy, stop := fun _ => ⟨adc, rfl⟩ }⟩ -- S_STOP
  · exact ⟨_, { ports := rfl, busy }⟩ -- H_UPDATE, the next word to come
  · exact ⟨_, { ports := rfl, busy }⟩ -- H_UPDATE, the last word
  · exact ⟨_, { ports := rfl, busy }⟩ -- H_FINAL
  · exact ⟨_, { ports := rfl, busy, stop := fun _ => ⟨adc, rfl⟩ }⟩ -- FAIL

theorem hostAccess_ports (ht : hostAccess a s = .next t) : t.ports = s.ports := by
  rcases hostAccess_cases ht with rfl | ⟨b, rfl⟩ | ⟨-, -, rfl⟩ | ⟨-, -, l, e, rfl⟩ |
    ⟨-, -, ⟨e, -, rfl⟩ | ⟨-, rfl⟩ | ⟨-, rfl⟩ | rfl⟩
  all_goals rfl

/-- Of the agents only the sequencer issues transactions (R56, R166). -/
theorem step_ports (h : Inv s) (ht : step s = .next t) : t.ports = s.ports ∨ ∃ x, Issues s t x := by
  rcases step_cases ht with ⟨-, ht⟩ | ⟨rest, ⟨-, ht⟩ | ⟨a, -, ht⟩ | ⟨-, ht⟩ | ⟨r, -, rfl⟩⟩
  · exact sequencerStep_ports h ht
  · exact (sequencerStep_ports (h.of_unread s.rej s.bus rest) ht).imp_right fun ⟨x, hx⟩ => ⟨x, { hx with }⟩
  · exact .inl (hostAccess_ports (s := { s with agenda := rest }) ht)
  · obtain ⟨b, l, rfl⟩ := waitIdleStep_next ht
    exact .inl rfl
  · exact .inl rfl

/-- Settles O50: `ADC_ON` follows the phase, and `S_READ` follows a poll answered `Success`. -/
theorem portTransactionsAreDisciplined : Obligations.PortTransactionsAreDisciplined := by
  intro s t h ht
  rcases step_ports h ht with kept | ⟨x, issued⟩
  · exact .inl kept
  · exact .inr ⟨x, issued.ports, issued.busy, issued.start, issued.stop, issued.poll, issued.read⟩

end Sys2Proof.Machine
end

section
/-! PROOFS. The encodings (spec/30_encoding.md): the decoder and the encoder are inverse to each other (R72–R74, R79, R82), and
the fields of `CONFIG`, `STATUS` and `PROGRESS` lie where R75–R77 put them; with them the host's wait for `BUSY`=0 (R83). -/

namespace Sys2Proof.Machine

variable {s : State}

/-! ### Decoding and encoding -/

/-- `f` is the encoding of the instruction `i`, and `i` is one that has an encoding (R52, R73). -/
def IsEncoding (f : Fetched) (i : Instr) : Prop := i.wellFormed = true ∧ encode i = f

theorem decode_encode {i : Instr} (wf : i.wellFormed = true) : decode (encode i) = .ok i := by
  cases i with
  | illegal w => exact Laws.Encoding.illegal w wf
  | rd32 off => exact Laws.Encoding.rd32 off wf
  | _ => rfl

/-- Every phase code is the encoding of its micro-operation (R79). -/
theorem isEncoding_decodePhase (c : BitVec 4) : IsEncoding (.phase c) (decodePhase c) := by
  rw [← code_ofCode c]
  cases Phase.ofCode c <;> exact ⟨rfl, rfl⟩

/-- Every command word is the encoding of its command (R72, R73). -/
theorem isEncoding_decodeCommand (c : Word) : IsEncoding (commandWrite c) (decodeCommand c) := by
  rcases decodeCommand_cases c with ⟨rfl, -⟩ | ⟨rfl, -⟩ | ⟨rfl, -⟩ | ⟨wf, hd⟩
  · exact ⟨rfl, rfl⟩
  · exact ⟨rfl, rfl⟩
  · exact ⟨rfl, rfl⟩
  · rw [hd]
    exact ⟨wf, rfl⟩

/-- An aligned offset of the window loses nothing in eight bits, so its read is the encoding of `RD32` (R52, R82). -/
theorem isEncoding_rd32 {off : Int} (nonneg : 0 ≤ off) (below : off < 256) (aligned : off % 4 = 0) :
    IsEncoding (.access ⟨off, 4, .read⟩) (.rd32 (BitVec.ofInt 8 off)) := by
  lift off to ℕ using nonneg
  have number : (BitVec.ofInt 8 off).toNat = off := by rw [BitVec.ofInt_natCast, BitVec.toNat_ofNat]; omega
  refine ⟨?_, by rw [encode, number]⟩
  rw [Instr.wellFormed, offset_aligned, number, decide_eq_true_iff]
  omega

/-- An access that the decoder takes for an instruction is that instruction's encoding. -/
theorem isEncoding_of_decodeAccess {a : Access} {i : Instr} (h : decodeAccess a = .ok i) : IsEncoding (.access a) i := by
  rcases decodeAccess_cases a with
    ⟨-, hd⟩ | ⟨-, -, hd⟩ | ⟨window, answerable, ⟨op, hd⟩ | ⟨v, op, off, hd⟩ | ⟨v, op, off, hd⟩ | ⟨v, -, -, -, hd⟩⟩
  all_goals
    rw [hd] at h
    cases h
  all_goals
    obtain ⟨nonneg, below⟩ := inWindow_iff.mp window
    obtain ⟨size, aligned⟩ := answerable_iff.mp answerable
    cases a
    subst op size
  · exact isEncoding_rd32 nonneg below aligned
  · subst off
    exact isEncoding_decodeCommand v
  · subst off
    exact ⟨rfl, rfl⟩

theorem isEncoding_of_decode {f : Fetched} {i : Instr} (h : decode f = .ok i) : IsEncoding f i := by
  cases f with
  | access a => exact isEncoding_of_decodeAccess h
  | phase c =>
    cases h
    exact isEncoding_decodePhase c

/-- Settles O1: decoding undoes encoding, and what decodes to an instruction is its encoding. -/
theorem decodeReadsExactlyEncodings : Obligations.DecodeReadsExactlyEncodings := by
  refine fun f i => ⟨isEncoding_of_decode, ?_⟩
  rintro ⟨wf, rfl⟩
  exact decode_encode wf

/-- Settles O2: a word that is none of the three is a well-formed illegal command, which is encoded by itself. -/
theorem commandWordsDecodeByWholeWord : Obligations.CommandWordsDecodeByWholeWord := by
  refine ⟨rfl, rfl, rfl, fun c not_nop not_seedInit not_sampleWord => ?_⟩
  have wf : (Instr.illegal c).wellFormed = true := by simp [Instr.wellFormed, not_nop, not_seedInit, not_sampleWord]
  exact decode_encode wf

/-- Settles O3. -/
theorem wordsWrittenOutDecode : Obligations.WordsWrittenOutDecode := ⟨rfl, rfl, rfl, rfl, rfl, rfl, rfl⟩

/-! ### The fields of a register -/

/-- A field of a register reads back from the bits it is put at. -/
theorem extractLsb'_field_same {m n : Nat} (x : BitVec m) (h : n + m ≤ 32) :
    (x.setWidth 32 <<< n : Word).extractLsb' n m = x := by
  apply BitVec.eq_of_getLsbD_eq
  intro i hi
  have bit : n + i < 32 := by omega
  simp [hi, bit]

/-- A field of a register has no bit below or above its own bits. -/
theorem extractLsb'_field_other {m n a w : Nat} (x : BitVec m) (h : a + w ≤ n ∨ n + m ≤ a) :
    (x.setWidth 32 <<< n : Word).extractLsb' a w = 0 := by
  apply BitVec.eq_of_getLsbD_eq
  intro i hi
  rcases Nat.lt_or_ge (a + i) n with below | above
  · simp [below]
  · simp [BitVec.getLsbD_of_ge x (a + i - n) (by omega)]

/-- The lowest field of a register, which is put there without a shift. -/
theorem extractLsb'_lowest_same {m : Nat} (x : BitVec m) (h : m ≤ 32) : (x.setWidth 32 : Word).extractLsb' 0 m = x := by
  simpa using extractLsb'_field_same (n := 0) x (by omega)

theorem extractLsb'_lowest_other {m a w : Nat} (x : BitVec m) (h : m ≤ a) :
    (x.setWidth 32 : Word).extractLsb' a w = 0 := by
  simpa using extractLsb'_field_other (n := 0) x (.inr (by omega))

/-- The bits of `STATUS` that are flags (R76). -/
theorem statusWord_flags (s : State) : (statusWord s).getLsbD 0 = s.busy ∧ (statusWord s).getLsbD 1 = s.done ∧
    (statusWord s).getLsbD 2 = s.init ∧ (statusWord s).getLsbD 3 = s.rej := by
  refine ⟨?_, ?_, ?_, ?_⟩ <;> simp [statusWord, bitWord]

/-- The wider fields of `STATUS` and its reserved bits (R76). -/
theorem statusWord_codes (s : State) : (statusWord s).extractLsb' 4 4 = s.err.code ∧
    (statusWord s).extractLsb' 8 4 = s.phase.code ∧ (statusWord s).extractLsb' 12 2 = s.op.code ∧
    (statusWord s).extractLsb' 14 18 = 0 := by
  simp [statusWord, bitWord, BitVec.extractLsb'_or, extractLsb'_field_same, extractLsb'_field_other,
    extractLsb'_lowest_other]

/-- The fields of `PROGRESS` and its other bits (R77). -/
theorem progressWord_fields (s : State) : (progressWord s).extractLsb' 0 6 = s.bitcnt ∧
    (progressWord s).extractLsb' 6 10 = 0 ∧ (progressWord s).extractLsb' 16 9 = s.ebits ∧
    (progressWord s).extractLsb' 25 7 = 0 := by
  simp [progressWord, BitVec.extractLsb'_or, extractLsb'_field_same, extractLsb'_field_other, extractLsb'_lowest_same,
    extractLsb'_lowest_other]

/-- `CONFIG` with the fields of a written word shows that word with bits 31:17 zero (R75). -/
theorem configWord_of_fields {v : Word} (limit : s.limit = v.extractLsb' 0 16) (limitEn : s.limitEn = v.getLsbD 16) :
    configWord s = v &&& 0x0001FFFF#32 := by
  have mask : ∀ i < 32, (0x0001FFFF#32).getLsbD i = decide (i < 17) := by decide
  rw [configWord, bitWord, limit, limitEn]
  apply BitVec.eq_of_getLsbD_eq
  intro i hi
  rw [BitVec.getLsbD_and, mask i hi]
  rcases lt_trichotomy i 16 with in_limit | rfl | above
  · have masked : i < 17 := by omega
    simp [hi, in_limit, masked]
  · simp
  · have not_limit : ¬ i < 16 := by omega
    have not_flag : i - 16 ≠ 0 := by omega
    have not_masked : ¬ i < 17 := by omega
    simp [not_limit, not_flag, not_masked]

/-! ### Reads and writes of the registers -/

/-- A read of a register outside the context is answered in every state (R131). -/
theorem exec_rd32_plain (s : State) {off : BitVec 8} (ha : off.toNat % 4 = 0) (plain : readsContext off = false) :
    exec (.rd32 off) s = .next { s with bus := .data (readRegister s off) } :=
  exec_rd32_answers ha fun hr => absurd hr (by simp [plain])

/-- Settles O17. -/
theorem statusFieldsReadInPlace : Obligations.StatusFieldsReadInPlace := by
  intro s
  obtain ⟨busy, done, init, rej⟩ := statusWord_flags s
  exact ⟨statusWord s, exec_rd32_plain s rfl rfl, busy, done, init, rej, statusWord_codes s⟩

/-- Settles O18. -/
theorem progressFieldsReadInPlace : Obligations.ProgressFieldsReadInPlace := fun s =>
  ⟨progressWord s, exec_rd32_plain s rfl rfl, progressWord_fields s⟩

/-- An accepted write of `CONFIG` (R130). -/
theorem exec_wr32Config_accepted (v : Word) (hb : s.busy = false) : exec (.wr32Config v) s =
    .next { s with limit := limitField v, limitEn := limitEnField v, bus := .written } := by
  simp [exec, execWr32Config, hb, answer]

theorem hostSees_config (s : State) : hostSees s 0x08#8 = some (.data (configWord s)) := by
  rw [hostSees, exec_rd32_plain s rfl rfl]
  rfl

/-- Settles O16: the fields of the written word are set, and `CONFIG` is made of the two. -/
theorem configReadsBackLowBits : Obligations.ConfigReadsBackLowBits := by
  refine fun v s hb => ⟨_, exec_wr32Config_accepted v hb, rfl, rfl, ?_, hostSees_config _⟩
  rw [hostSees_config, configWord_of_fields (v := v) rfl rfl]

/-- A turn of `WAIT_IDLE` goes by `BUSY`, which is bit 0 of the value it reads (R76, R83). -/
theorem waitIdleStep_eq (s : State) : waitIdleStep s =
    .next (if s.busy then
        { s with agenda := .sequencer :: .waitIdle :: s.agenda, bus := .data (statusWord s) }
      else { s with bus := .data (statusWord s) }) := by
  rw [waitIdleStep, (statusWord_flags s).1]
  rfl

/-- Settles O6. -/
theorem waitIdlePollsBusy : Obligations.WaitIdlePollsBusy := by
  intro s rest ha
  rw [step_event ha, runEvent, waitIdleStep_eq]
  refine ⟨fun busy => ?_, fun idle => ?_⟩
  · rw [if_pos busy]
    rfl
  · rw [if_neg (by simp [idle])]
    rfl

end Sys2Proof.Machine
end

section
/-! PROOFS. The sampler's micro-operations one by one (spec/41_sampler.md R87–R99), once round the retry cycle (R100, R103), and
the closed form of a word (R101, R102). -/

namespace Sys2Proof.Machine

variable {s t : State}

/-! ### The micro-operations with no answer of the ADC -/

/-- Settles O27. -/
theorem sStartClearsRetryCount : Obligations.SStartClearsRetryCount := by
  intro s stopped
  rw [exec, execSStart, adcStart_next]
  exact ⟨stopped, rfl⟩

/-- Settles O28. -/
theorem sRStartKeepsRetryCount : Obligations.SRStartKeepsRetryCount := by
  intro s stopped
  rw [exec, execSRStart, adcStart_next]
  exact ⟨stopped, rfl⟩

/-- Settles O29. -/
theorem waitsOnlyAdvancePhase : Obligations.WaitsOnlyAdvancePhase := fun _ => ⟨rfl, rfl, rfl⟩

theorem exec_sRStop (started : s.adc = .started) : exec .sRStop s =
    .next { s with adc := .stopped, adcOn := false, phase := .sRWait, ports := .adcStop :: s.ports } := by
  rw [exec, execSRStop, adcStop_next]
  exact ⟨started, rfl⟩

theorem exec_sStop (started : s.adc = .started) : exec .sStop s =
    .next { s with adc := .stopped, adcOn := false, phase := .sDecorr, ports := .adcStop :: s.ports } := by
  rw [exec, execSStop, adcStop_next]
  exact ⟨started, rfl⟩

/-- Settles O30. -/
theorem stopsClearAdcOn : Obligations.StopsClearAdcOn := fun _ started => ⟨exec_sRStop started, exec_sStop started⟩

/-- Settles O34. -/
theorem failReportsHwUnavailable : Obligations.FailReportsHwUnavailable := by
  intro s started
  rw [exec, execFail, adcStop_next]
  exact ⟨started, rfl⟩

theorem exec_sDecorr (s : State) : exec .sDecorr s = .next (decorrNext s) := rfl

/-- Settles O33: the three cases of the loop test exclude one another. -/
theorem sDecorrEndsOrContinuesWord : Obligations.SDecorrEndsOrContinuesWord := by
  intro s
  rw [exec_sDecorr]
  rcases decorrNext_cases s with ⟨room, hn⟩ | ⟨full, sample, hn⟩ | ⟨full, other, hn⟩ <;> rw [hn]
  · exact ⟨fun _ => rfl, fun h => absurd room (not_lt.mpr h), fun h => absurd room (not_lt.mpr h)⟩
  · exact ⟨fun h => absurd h full, fun _ _ => rfl, fun _ h => absurd sample h⟩
  · exact ⟨fun h => absurd h full, fun _ h => absurd h other, fun _ _ => rfl⟩

/-! ### The micro-operations that the ADC answers -/

theorem countRetry_eq (r : BitVec 16) : countRetry r = BitVec.ofNat 16 (min 0xFFFF (r.toNat + 1)) :=
  BitVec.eq_of_toNat_eq (by rw [countRetry_toNat, BitVec.toNat_ofNat]; omega)

/-- One poll: the ADC's next draw is answered and recorded, and `pollNext` goes by it (R89). -/
theorem exec_sPoll {r : PollAnswer} (started : s.adc = .started) (answer : Config.adcPollAnswer s.draws = r) :
    exec .sPoll s =
      .next (pollNext r { s with draws := s.draws + 1, ports := .adcPoll Config.tPoll r :: s.ports }) := by
  subst answer
  rw [exec, execSPoll, adcPoll_next]
  exact ⟨started, rfl⟩

/-- Settles O31: `pollNext` says what follows each answer, with the saturated count as a number. -/
theorem sPollBranchesOnAnswer : Obligations.SPollBranchesOnAnswer := by
  intro s started
  cases answer : Config.adcPollAnswer s.draws with
  | success => exact exec_sPoll started answer
  | timeout =>
    rw [exec_sPoll started answer, pollNext]
    dsimp only
    rw [countRetry_eq]

/-- Settles O32: the pack function is the append of the low bits. -/
theorem sReadPacksTwoBits : Obligations.SReadPacksTwoBits := by
  intro s started
  rw [exec, execSRead, adcRead_next, packSample, pack_eq_append]
  exact ⟨started, rfl⟩

/-! ### Once round the retry cycle -/

/-- With nothing scheduled a run starts with the micro-operation of the phase (R62). -/
theorem run_microOperation {i : Instr} {k : Nat} {r : Result} (unscheduled : s.agenda = [])
    (phase : decodePhase s.phase.code = i) (h : exec i s = .next t) (rest : run k t = r) : run (k + 1) s = r := by
  rw [run, step_idle_agenda unscheduled, sequencerStep, phase, h]
  exact rest

/-- With no bound in force a timeout is retried (R89, R100). -/
theorem exec_sPoll_retry (started : s.adc = .started) (unbounded : s.limitEn = false)
    (answer : Config.adcPollAnswer s.draws = .timeout) : exec .sPoll s =
      .next { s with draws := s.draws + 1, ports := .adcPoll Config.tPoll .timeout :: s.ports
                     rcnt := countRetry s.rcnt, phase := .sRStop } := by
  rw [exec_sPoll started answer]
  simp [pollNext, unbounded]

/-- Five steps, `S_POLL`, `S_R_STOP`, `S_R_WAIT`, `S_R_START` and `S_R_SETTLE`, lead from a timeout to `S_POLL` (R103). -/
theorem run_retryCycle (polling : s.phase = .sPoll) (started : s.adc = .started) (unscheduled : s.agenda = [])
    (unbounded : s.limitEn = false) (answer : Config.adcPollAnswer s.draws = .timeout) : run 5 s =
      .next { s with draws := s.draws + 1, rcnt := countRetry s.rcnt, phase := .sPoll, adc := .started, adcOn := true
                     ports := .adcStart :: .adcStop :: .adcPoll Config.tPoll .timeout :: s.ports } := by
  refine run_microOperation unscheduled (by rw [polling]; rfl) (exec_sPoll_retry started unbounded answer) ?_
  refine run_microOperation unscheduled rfl (exec_sRStop started) ?_
  refine run_microOperation unscheduled rfl (waitsOnlyAdvancePhase _).2.1 ?_
  refine run_microOperation unscheduled rfl (sRStartKeepsRetryCount _ rfl) ?_
  exact run_microOperation unscheduled rfl (waitsOnlyAdvancePhase _).2.2 rfl

/-- Settles O42: a `Success` leads on at once, a timeout once round the cycle. -/
theorem unboundedRetryCycles : Obligations.UnboundedRetryCycles := by
  intro s polling started unscheduled unbounded
  cases answer : Config.adcPollAnswer s.draws with
  | success =>
    have poll : run 1 s = _ :=
      run_microOperation unscheduled (by rw [polling]; rfl) (exec_sPoll started answer) rfl
    exact ⟨_, poll, rfl, rfl, rfl, rfl⟩
  | timeout =>
    exact ⟨_, run_retryCycle polling started unscheduled unbounded answer, rfl, rfl, unscheduled, unbounded,
      rfl, rfl, rfl, rfl, rfl, rfl⟩

/-! ### The closed form of a word -/

/-- A sample's two low bits as the next digit, in base 4, of the number before it (R101). -/
def appendDigit (n : Nat) (raw : BitVec Config.adcWidth) : Nat := 4 * n + raw.toNat % 4

/-- The digits of a sequence of samples, the first one the most significant (R102). -/
theorem foldl_appendDigit (raws : List (BitVec Config.adcWidth)) (n : Nat) : raws.foldl appendDigit n =
    4 ^ raws.length * n + ∑ j ∈ Finset.range raws.length, ((raws.getD j 0).toNat % 4) * 4 ^ (raws.length - 1 - j) := by
  induction raws generalizing n with
  | nil => simp
  | cons raw raws ih =>
    have tail (j : Nat) : raws.length - 1 - j = raws.length - (j + 1) := by omega
    rw [List.foldl_cons, ih, List.length_cons, Finset.sum_range_succ']
    simp only [appendDigit, List.getD_cons_succ, List.getD_cons_zero, Nat.add_sub_cancel, Nat.sub_zero, tail]
    ring

/-- Digits in base 4 stay below the next power of 4. -/
theorem foldl_appendDigit_lt (raws : List (BitVec Config.adcWidth)) (n : Nat) :
    raws.foldl appendDigit n < 4 ^ raws.length * (n + 1) := by
  induction raws generalizing n with
  | nil => simp
  | cons raw raws ih =>
    calc raws.foldl appendDigit (appendDigit n raw)
        < 4 ^ raws.length * (appendDigit n raw + 1) := ih _
      _ ≤ 4 ^ raws.length * (4 * (n + 1)) := Nat.mul_le_mul_left _ (by rw [appendDigit]; omega)
      _ = 4 ^ (raws.length + 1) * (n + 1) := by ring

/-- Sixteen samples fill the word: the start value is shifted out, and their digits lose nothing (R101, R102). -/
theorem foldl_pack_word {raws : List (BitVec Config.adcWidth)} (sixteen : raws.length = 16) (a : Word) :
    (raws.foldl pack a).toNat = ∑ j ∈ Finset.range 16, ((raws.getD j 0).toNat % 4) * 2 ^ (30 - 2 * j) := by
  have packed : (raws.foldl pack a).toNat = (4 ^ 16 * a.toNat + raws.foldl appendDigit 0) % 2 ^ 32 :=
    sixteen ▸ foldl_pack_toNat raws a
  have fits := foldl_appendDigit_lt raws 0
  have digits := foldl_appendDigit raws 0
  rw [sixteen] at fits digits
  calc (raws.foldl pack a).toNat
      = raws.foldl appendDigit 0 := by omega
    _ = ∑ j ∈ Finset.range 16, ((raws.getD j 0).toNat % 4) * 4 ^ (15 - j) := by simpa using digits
    _ = ∑ j ∈ Finset.range 16, ((raws.getD j 0).toNat % 4) * 2 ^ (30 - 2 * j) :=
      Finset.sum_congr rfl fun j _ => by rw [show 30 - 2 * j = 2 * (15 - j) by omega, pow_mul, Nat.pow_two]

/-- Settles O41: the closed form names the samples alone, so the start value does not matter. -/
theorem wordClosedForm : Obligations.WordClosedForm := by
  intro raws a sixteen
  have closed := foldl_pack_word sixteen
  exact ⟨BitVec.eq_of_toNat_eq ((closed a).trans (closed 0).symm), closed a⟩

end Sys2Proof.Machine
end

section
/-! PROOFS. What the bit-packer and the feeder hold (spec/41_sampler.md R101, R102; 42_conditioner.md R117): every step keeps the
data invariant. The proof goes by three classes of phases: those that build a word, `H_FINAL` and `DERIVE`, and the others. -/

namespace Sys2Proof.Machine

variable {s t : State}

/-! ### What the data invariant is in each class of phases -/

/-- The clauses of the data invariant in which no phase is named. -/
structure ContextData (s : State) : Prop where
  tag_eq : s.hctxOpen = true → s.htag = Config.ctxTag
  state_init : s.init = true → s.ctxState = Config.hashFn Config.ctxTag none s.hmsg Config.stateBytes

/-- What holds in every phase of a word: `ACC` is the packing of the word's reads, and a seed's message the words before it. -/
structure WordData (s : State) : Prop where
  acc_eq : s.acc = packAll ((reads s.ports).take (s.bitcnt.toNat / 2))
  msg_eq : s.hctxOpen = true → s.hmsg = seedMessage (s.ebits.toNat / 32) ((reads s.ports).drop (s.bitcnt.toNat / 2))

theorem DataInv.contextData (h : DataInv s) : ContextData s := { h with }

theorem DataInv.wordData (h : DataInv s) (hp : s.phase.building = true) : WordData s :=
  ⟨h.acc_eq hp, fun ho => h.msg_building ho hp⟩

theorem dataInv_of_inWord (hc : ContextData t) (hw : WordData t) (hp : t.phase.building = true) : DataInv t :=
  have not_final : ¬(t.phase = .hFinal ∨ t.phase = .derive) := by
    rintro (hf | hf) <;> simp [hf, Phase.building] at hp
  { hc with
    acc_eq := fun _ => hw.acc_eq
    msg_building := fun ho _ => hw.msg_eq ho
    msg_final := fun hf => absurd hf not_final
    state_derive := fun hd => absurd (.inr hd) not_final }

theorem dataInv_of_final (hc : ContextData t) (hp : t.phase = .hFinal ∨ t.phase = .derive)
    (msg_final : t.hmsg = seedMessage 8 (reads t.ports))
    (state_derive : t.phase = .derive → t.ctxState = Config.hashFn Config.ctxTag none t.hmsg Config.stateBytes) :
    DataInv t :=
  have not_building : t.phase.building ≠ true := by rcases hp with hp | hp <;> simp [hp, Phase.building]
  { hc with
    acc_eq := fun hb => absurd hb not_building
    msg_building := fun _ hb => absurd hb not_building
    msg_final := fun _ => msg_final
    state_derive }

theorem dataInv_of_outside (hc : ContextData t) (hp : t.phase = .idle ∨ t.phase = .hInit) : DataInv t :=
  { hc with
    acc_eq := by rcases hp with hp | hp <;> simp [hp, Phase.building]
    msg_building := by rcases hp with hp | hp <;> simp [hp, Phase.building]
    msg_final := by rcases hp with hp | hp <;> simp [hp]
    state_derive := by rcases hp with hp | hp <;> simp [hp] }

/-! ### A word begun, a sample added, a word fed -/

/-- An empty word is the packing of no reads; `msg` is about the reads before it, which are all (R86). -/
theorem wordData_beginWord (msg : s.hctxOpen = true → s.hmsg = seedMessage (s.ebits.toNat / 32) (reads s.ports)) :
    WordData (beginWord s) := ⟨by simp [packAll], by simpa using msg⟩

/-- A sample is packed and its read recorded in the same step (R95). -/
theorem WordData.addSample (h : WordData s) (room : s.bitcnt.toNat < 32) (raw : BitVec Config.adcWidth) :
    WordData (packSample raw (logPort (.adcRead raw) s)) := by
  have count : (s.bitcnt + 2#6).toNat / 2 = s.bitcnt.toNat / 2 + 1 := by rw [bitcnt_add_two room]; omega
  constructor
  · rw [packSample_acc, packSample_bitcnt, logPort_acc, logPort_bitcnt, count, h.acc_eq]
    rfl
  · rw [packSample_bitcnt, logPort_bitcnt, count]
    exact h.msg_eq

/-- Feeding a complete word makes the message that of all reads (R112, R117). -/
theorem WordData.fed_message (h : WordData s) (opened : s.hctxOpen = true) (full : s.bitcnt.toNat = 32)
    (room : s.ebits.toNat < 256) :
    s.hmsg ++ bytesLE s.acc = seedMessage ((s.ebits + 32#9).toNat / 32) (reads s.ports) := by
  have words : (s.ebits + 32#9).toNat / 32 = s.ebits.toNat / 32 + 1 := by rw [ebits_add_word room]; omega
  rw [words, h.msg_eq opened, h.acc_eq, full]
  rfl

/-! ### The agents' moves -/

/-- The data invariant is not about `REJ`, the host's answer or the schedule. -/
theorem DataInv.of_unread (h : DataInv s) (rej : Bool) (bus : BusAnswer) (agenda : List Event) :
    DataInv { s with rej := rej, bus := bus, agenda := agenda } := { h with }

theorem dataInv_of_reset (r : Bool) (s : State) : DataInv (platformReset r s) :=
  dataInv_of_outside ⟨nofun, nofun⟩ (.inl rfl)

/-- `INIT`=0 in the feeder's phases, so what they do to the message and to `STATE` breaks no clause about a written context. -/
theorem sequencerStep_keeps_dataInv (hi : Inv s) (h : DataInv s) (ht : sequencerStep s = .next t) : DataInv t := by
  have ctx := h.contextData
  have word := h.wordData
  have seed := hi.op_feeder
  have seed_once := hi.seed_once
  have opened := hi.open_phase
  rcases sequencerStep_cases ht with ⟨hp, rfl⟩ | ⟨hp, rfl⟩ | ⟨hp, rfl⟩ | ⟨hp, rfl⟩ | ⟨hp, r, ht, hpoll⟩ | ⟨hp, rfl⟩ |
    ⟨hp, rfl⟩ | ⟨hp, rfl⟩ | ⟨hp, rfl⟩ | ⟨hp, v, rfl⟩ | ⟨hp, rfl⟩ | ⟨hp, hloop⟩ | ⟨hp, hloop⟩ | ⟨hp, rfl⟩ | ⟨hp, rfl⟩ |
    ⟨hp, rfl⟩ <;> rw [hp] at word seed seed_once opened
  · -- IDLE
    exact h
  · -- H_INIT
    have fresh : s.init = false := seed_once nofun (seed rfl)
    exact dataInv_of_inWord ⟨fun _ => rfl, fun init => by simp [fresh] at init⟩
      (wordData_beginWord fun _ => by simp [seedMessage]) rfl
  · -- S_START
    exact dataInv_of_inWord { ctx with } { word rfl with } rfl
  · -- S_SETTLE
    exact dataInv_of_inWord { ctx with } { word rfl with } rfl
  · -- S_POLL
    have building : t.phase.building = true := by
      rcases hpoll with ⟨-, hq, -⟩ | ⟨-, -, -, hq, -⟩ | ⟨-, -, hq, -⟩ <;> simp [hq, Phase.building]
    rw [ht] at building ⊢
    exact dataInv_of_inWord { ctx with } { word rfl with } building
  · -- S_R_STOP
    exact dataInv_of_inWord { ctx with } { word rfl with } rfl
  · -- S_R_WAIT
    exact dataInv_of_inWord { ctx with } { word rfl with } rfl
  · -- S_R_START
    exact dataInv_of_inWord { ctx with } { word rfl with } rfl
  · -- S_R_SETTLE
    exact dataInv_of_inWord { ctx with } { word rfl with } rfl
  · -- S_READ
    have room : s.bitcnt.toNat < 32 := hi.bitcnt_lt (by rw [hp]; rfl)
    exact dataInv_of_inWord { ctx with } { (word rfl).addSample room v with } rfl
  · -- S_STOP
    exact dataInv_of_inWord { ctx with } { word rfl with } rfl
  · -- S_DECORR
    rcases hloop with ⟨-, rfl⟩ | ⟨-, -, rfl⟩ | ⟨-, -, rfl⟩
    · exact dataInv_of_inWord { ctx with } { word rfl with } rfl
    · exact dataInv_of_outside { ctx with } (.inl rfl)
    · exact dataInv_of_inWord { ctx with } { word rfl with } rfl
  · -- H_UPDATE
    have fresh : s.init = false := seed_once nofun (seed rfl)
    have room : s.ebits.toNat < 256 := hi.ebits_lt (seed rfl) (by rw [hp]; rfl)
    have message := (word rfl).fed_message (opened.mpr ⟨seed rfl, .inl rfl⟩) (hi.bitcnt_full hp) room
    have ctx : ContextData { s with hmsg := s.hmsg ++ bytesLE s.acc } :=
      ⟨ctx.tag_eq, fun init => by simp [fresh] at init⟩
    rcases hloop with ⟨-, rfl⟩ | ⟨last, rfl⟩
    · exact dataInv_of_inWord { ctx with } (wordData_beginWord fun _ => message) rfl
    · have eight : (s.ebits + 32#9).toNat / 32 = 8 := by rw [ebits_add_word room] at last ⊢; omega
      rw [eight] at message
      exact dataInv_of_final { ctx with } (.inl rfl) message nofun
  · -- H_FINAL
    have fresh : s.init = false := seed_once nofun (seed rfl)
    have tag := ctx.tag_eq (opened.mpr ⟨seed rfl, .inr rfl⟩)
    exact dataInv_of_final ⟨nofun, fun init => by simp [fresh] at init⟩ (.inr rfl) (h.msg_final (.inl hp))
      fun _ => by rw [← tag]; rfl
  · -- DERIVE
    exact dataInv_of_outside ⟨ctx.tag_eq, fun _ => h.state_derive hp⟩ (.inl rfl)
  · -- FAIL
    exact dataInv_of_outside ⟨nofun, ctx.state_init⟩ (.inl rfl)

/-- The host reaches the bit-packer only by starting a sample, and that begins a word with no hash context open (R128). -/
theorem hostAccess_keeps_dataInv {a : Access} (hi : Inv s) (h : DataInv s) (ht : hostAccess a s = .next t) : DataInv t := by
  have ctx := h.contextData
  rcases hostAccess_cases ht with rfl | ⟨b, rfl⟩ | ⟨-, -, rfl⟩ | ⟨-, -, l, e, rfl⟩ | ⟨hb, -, hc⟩
  · exact h
  · exact { h with }
  · exact { h with }
  · exact { h with }
  · rcases hc with ⟨e, -, rfl⟩ | ⟨-, rfl⟩ | ⟨-, rfl⟩ | rfl
    · exact dataInv_of_outside { ctx with } (.inl rfl)
    · exact dataInv_of_outside { ctx with } (.inl rfl)
    · exact dataInv_of_outside { ctx with } (.inr rfl)
    · have closed : s.hctxOpen = false := (hi.idle_stopped (hi.phase_idle hb)).2
      exact dataInv_of_inWord { ctx with } { wordData_beginWord (s := s) fun ho => by simp [closed] at ho with } rfl

/-- Settles O47, by the classes of phases: only `S_READ` records a read, and packs it in the same step. -/
theorem stepKeepsDataInvariants : Obligations.StepKeepsDataInvariants := by
  intro s t hi h ht
  rcases step_cases ht with ⟨-, ht⟩ | ⟨rest, ⟨-, ht⟩ | ⟨a, -, ht⟩ | ⟨-, ht⟩ | ⟨r, -, rfl⟩⟩
  · exact sequencerStep_keeps_dataInv hi h ht
  · exact sequencerStep_keeps_dataInv (hi.of_unread s.rej s.bus rest) (h.of_unread s.rej s.bus rest) ht
  · exact hostAccess_keeps_dataInv (hi.of_unread s.rej s.bus rest) (h.of_unread s.rej s.bus rest) ht
  · obtain ⟨b, l, rfl⟩ := waitIdleStep_next ht
    exact h.of_unread s.rej b l
  · exact dataInv_of_reset r _

end Sys2Proof.Machine
end

section
/-! PROOFS. The seed conditioner (spec/42_conditioner.md R110–R118): its micro-operations one by one, the counter function as a
number, and the closed form of the context that `DERIVE` completes. -/

namespace Sys2Proof.Machine

variable {s t : State}

/-! ### The micro-operations -/

/-- Settles O36. -/
theorem hInitOpensContext : Obligations.HInitOpensContext := fun _ => rfl

theorem exec_hUpdate (s : State) : exec .hUpdate s =
    .next (feedNext { s with
      hmsg := s.hmsg ++ bytesLE s.acc, ports := .hashUpdate (bytesLE s.acc) :: s.ports, ebits := s.ebits + 32#9 }) := rfl

/-- Settles O37: the bytes are the word's in the feed order, and the two cases of the loop test exclude one another. -/
theorem hUpdateFeedsWord : Obligations.HUpdateFeedsWord := by
  intro s
  refine ⟨bytesLE s.acc, rfl, ?_⟩
  rw [exec_hUpdate]
  rcases feedNext_cases { s with
      hmsg := s.hmsg ++ bytesLE s.acc, ports := .hashUpdate (bytesLE s.acc) :: s.ports, ebits := s.ebits + 32#9 }
    with ⟨room, hn⟩ | ⟨full, hn⟩ <;> rw [hn]
  · exact ⟨fun _ => rfl, fun h => absurd room (not_lt.mpr h)⟩
  · exact ⟨fun h => absurd h full, fun _ => rfl⟩

/-- `HASH_FN` returns as many bytes as it is asked for (R9). -/
theorem hashFn_length (tag : Tag) (key : Option (List Byte)) (msg : List Byte) (n : Nat) :
    (Config.hashFn tag key msg n).length = n := List.length_ofFn

/-- Settles O38. -/
theorem hFinalWritesState : Obligations.HFinalWritesState := fun s =>
  ⟨digest Config.stateBytes s, rfl, hashFn_length _ _ _ _, rfl⟩

/-- Settles O39. -/
theorem deriveWritesCounterAndInit : Obligations.DeriveWritesCounterAndInit := fun _ => rfl

/-! ### The counter function -/

/-- Eight bytes fit the counter, so nothing is cut off. -/
theorem le64_toNat (b : List Byte) : (le64 b).toNat = ∑ i ∈ Finset.range 8, (b.getD i 0).toNat * 2 ^ (8 * i) := by
  have fits : leNat (b.take 8) < 2 ^ 64 :=
    calc leNat (b.take 8)
        < 2 ^ (8 * (b.take 8).length) := leNat_lt _
      _ ≤ 2 ^ (8 * 8) := Nat.pow_le_pow_right (by decide) (Nat.mul_le_mul_left 8 (List.length_take_le 8 b))
  rw [le64, BitVec.toNat_ofNat, Nat.mod_eq_of_lt fits, leNat_take8]

/-- Settles O40: missing bytes count as zero on both sides, so the length does not matter. -/
theorem counterIsComplementOfLittleEndian : Obligations.CounterIsComplementOfLittleEndian := by
  intro b _
  rw [ctr, BitVec.toNat_not, le64_toNat]

/-! ### The context of a seed -/

theorem sequencerStep_derive (hp : s.phase = .derive) : sequencerStep s =
    .next (finish .ok { s with counter := ctr s.ctxState, init := true, acc := 0x00000000#32 }) := by
  rw [sequencerStep_phase, hp]
  rfl

/-- At `DERIVE` the message is that of the eight words, and `STATE` its hash (R113, R117). -/
theorem DataInv.ctxState_derive (h : DataInv s) (hp : s.phase = .derive) :
    s.ctxState = Config.hashFn Config.ctxTag none (seedMessage 8 (reads s.ports)) Config.stateBytes := by
  rw [h.state_derive hp, h.msg_final (.inr hp)]

/-- Settles O43: `DERIVE` keeps the `STATE` that it finds and makes the counter of it. -/
theorem seedContextClosedForm : Obligations.SeedContextClosedForm := by
  intro s _ h hp
  exact ⟨_, sequencerStep_derive hp, rfl, rfl, rfl, rfl, h.ctxState_derive hp, rfl⟩

/-- Settles O44: the closed form names the message of the eight words alone. -/
theorem seedIsDeterministic : Obligations.SeedIsDeterministic := by
  intro s₁ s₂ t₁ t₂ _ h₁ _ h₂ hp₁ hp₂ words ht₁ ht₂
  have context : s₁.ctxState = s₂.ctxState := by rw [h₁.ctxState_derive hp₁, h₂.ctxState_derive hp₂, words]
  rw [sequencerStep_derive hp₁] at ht₁
  rw [sequencerStep_derive hp₂] at ht₂
  cases ht₁
  cases ht₂
  exact ⟨context, congrArg ctr context⟩

end Sys2Proof.Machine
end

section
/-! PROOFS. The host commands and the register accesses (spec/43_commands.md R125–R131, R133): what a command that is accepted or
rejected leaves, what `STATUS` reads after one that completes at acceptance, and the registers that are always readable. -/

namespace Sys2Proof.Machine

variable {s : State}

/-! ### Commands and `CONFIG` writes -/

/-- What a command leaves that completes at acceptance with an error code and an `OP` (R126, R127, R129). -/
def completedCommand (e : Err) (o : Op) (s : State) : State :=
  { s with rej := false, err := e, done := true, op := o, phase := .idle, bus := .written }

/-- Outside an operation `Finish(e)` leaves `BUSY` as it is (R132). -/
theorem finish_of_idle (e : Err) (hb : s.busy = false) :
    finish e s = { s with err := e, done := true, phase := .idle } := by
  rw [finish, ← hb]

/-- An accepted command whose body ends by `Finish(e)`. -/
theorem finish_openCommand (e : Err) (o : Op) (hb : s.busy = false) :
    answer .written (finish e { openCommand s with op := o }) = completedCommand e o s := by
  rw [finish_of_idle (s := { openCommand s with op := o }) e hb]
  rfl

theorem exec_nop_accepted (hb : s.busy = false) : exec .nop s = .next (completedCommand .ok .none s) := by
  rw [exec, execNop, command_idle _ hb, finish_openCommand .ok .none hb]

theorem exec_seedInit_reentry (hb : s.busy = false) (hi : s.init = true) :
    exec .seedInit s = .next (completedCommand .reentry .seed s) := by
  rw [exec, execSeedInit, command_idle _ hb, openCommand_init, if_pos hi]
  exact congrArg _ (finish_openCommand .reentry .seed hb)

theorem exec_illegal_accepted (w : Word) (hb : s.busy = false) :
    exec (.illegal w) s = .next (completedCommand .illegalCmd .none s) := by
  rw [exec, execIllegal, command_idle _ hb, finish_openCommand .illegalCmd .none hb]

/-- Any command is rejected alike (R125, R145). -/
theorem next_command_rejected (body : State → State) (hb : s.busy = true) :
    (.next (command body s) : Result) = .next { s with rej := true, bus := .written } := by
  rw [command_busy body hb]
  rfl

theorem exec_wr32Config_rejected (v : Word) (hb : s.busy = true) :
    exec (.wr32Config v) s = .next { s with rej := true, bus := .written } := by
  rw [exec, execWr32Config, if_pos hb]
  rfl

/-- Settles O54: while `BUSY`=1 an access is answered, or a write rejected; every other outcome needs `BUSY`=0. -/
theorem noAccessDisturbsRunningOperation : Obligations.NoAccessDisturbsRunningOperation := by
  intro s t a busy ht
  rcases hostAccess_cases ht with rfl | ⟨b, rfl⟩ | ⟨-, -, rfl⟩ | ⟨idle, -⟩ | ⟨idle, -⟩
  · rfl -- outside the window
  · rfl -- a read, a bus error, or an ignored write
  · rfl -- a rejected write
  all_goals simp [busy] at idle

/-- Settles O9. -/
theorem nopCompletesAtOnce : Obligations.NopCompletesAtOnce := fun _ hb => exec_nop_accepted hb

/-- Settles O11: an accepted command first clears the flags (R125), and this one then begins a word (R86). -/
theorem sampleWordStartsSampler : Obligations.SampleWordStartsSampler := by
  intro s hb
  rw [exec, execSampleWord, command_idle _ hb]
  rfl

/-- Settles O13: rejection goes before what the command does, so the commands differ in nothing. -/
theorem writesWhileBusyOnlySetRej : Obligations.WritesWhileBusyOnlySetRej := fun _ hb =>
  ⟨next_command_rejected _ hb, next_command_rejected _ hb, next_command_rejected _ hb,
    fun _ => next_command_rejected _ hb, fun v => exec_wr32Config_rejected v hb⟩

/-- Settles O15. -/
theorem configWriteSetsLimit : Obligations.ConfigWriteSetsLimit := fun v _ hb => exec_wr32Config_accepted v hb

/-! ### `STATUS` after a command that completes at acceptance -/

/-- Only `OP`, `ERR` and `INIT` are left open of `STATUS`, and `DONE` is bit 1 (R76). -/
theorem statusWord_completedCommand (e : Err) (o : Op) (hb : s.busy = false) :
    statusWord (completedCommand e o s) =
      (o.code.setWidth 32 <<< 12) ||| (e.code.setWidth 32 <<< 4) ||| (bitWord s.init <<< 2) ||| 0x00000002#32 := by
  simp [statusWord, completedCommand, hb, bitWord, Phase.code]

/-- Settles O14: each of the three commands is a completed one, and `INIT` decides bit 2. -/
theorem statusAfterImmediateCommands : Obligations.StatusAfterImmediateCommands := by
  refine fun s hb => ⟨⟨_, exec_nop_accepted hb, ?_⟩, fun hi => ⟨_, exec_seedInit_reentry hb hi, ?_⟩,
    fun w => ⟨_, exec_illegal_accepted w hb, ?_⟩⟩
  · rw [statusWord_completedCommand _ _ hb]
    cases s.init <;> rfl
  · rw [statusWord_completedCommand _ _ hb, hi]
    rfl
  · rw [statusWord_completedCommand _ _ hb]
    cases s.init <;> rfl

/-! ### Reads -/

/-- The reserved offsets lie above the context's counter and below its state (R21, R53). -/
theorem readsContext_reserved {off : BitVec 8} (above : 0x1C ≤ off.toNat) (below : off.toNat < 0x40) :
    readsContext off = false := by
  have not_counterLo : off ≠ 0x14#8 := by rintro rfl; simp at above
  have not_counterHi : off ≠ 0x18#8 := by rintro rfl; simp at above
  have not_state : ¬ 0x40 ≤ off.toNat := not_le.mpr below
  simp [readsContext, not_counterLo, not_counterHi, not_state]

/-- A reserved offset is no register's, so it reads zero (R53). -/
theorem readRegister_reserved (s : State) {off : BitVec 8} (above : 0x1C ≤ off.toNat) (below : off.toNat < 0x40) :
    readRegister s off = 0x00000000#32 := by
  have not_register {o : BitVec 8} (ho : o.toNat < 0x1C) : off ≠ o := by rintro rfl; omega
  simp [readRegister, not_register, not_le.mpr below]

/-- Settles O19: none of these registers is the context's, and a reserved offset reads zero. -/
theorem readsOfPlainRegisters : Obligations.ReadsOfPlainRegisters := by
  refine fun s => ⟨exec_rd32_plain s rfl rfl, exec_rd32_plain s rfl rfl, exec_rd32_plain s rfl rfl,
    fun off above below aligned => ?_⟩
  rw [exec_rd32_plain s aligned (readsContext_reserved above below), readRegister_reserved s above below]

end Sys2Proof.Machine
end

section
/-! PROOFS. Exceptions (spec/60_exceptions.md): the errors that a command reports at acceptance (R142, R143), the reads that the
bus or the model rejects (R144, R149), `HW_UNAVAILABLE` (R146), and a sequencer that is never stuck (R151). -/

namespace Sys2Proof.Machine

variable {s t : State}

/-! ### The sequencer is never stuck -/

/-- Under the invariants the ADC is started exactly in the phases between a start and a stop (R42, R56). -/
theorem Inv.adc_eq (h : Inv s) (ha : AdcInStep s) :
    s.adc = if s.phase.adcRuns then AdcState.started else AdcState.stopped := by
  rw [← h.adc_phase]
  exact ha

/-- A phase's transaction needs the ADC as the phases before it leave it. -/
theorem adcNeeded_adcRuns {p : Phase} {a : AdcState} (h : adcNeeded p = some a) :
    a = if p.adcRuns then AdcState.started else AdcState.stopped := by
  revert a
  cases p <;> simp [adcNeeded, Phase.adcRuns]

/-- Only the ADC can leave the sequencer without an answer (R55, I9). -/
theorem sequencerStep_answers (h : ∀ a, adcNeeded s.phase = some a → s.adc = a) : ∃ t, sequencerStep s = .next t := by
  rw [sequencerStep_phase]
  cases hp : s.phase <;> rw [hp] at h
  case sStart => exact ⟨_, adcStart_next.mpr ⟨h _ rfl, rfl⟩⟩
  case sRStart => exact ⟨_, adcStart_next.mpr ⟨h _ rfl, rfl⟩⟩
  case sPoll => exact ⟨_, adcPoll_next.mpr ⟨h _ rfl, rfl⟩⟩
  case sRead => exact ⟨_, adcRead_next.mpr ⟨h _ rfl, rfl⟩⟩
  case sRStop => exact ⟨_, adcStop_next.mpr ⟨h _ rfl, rfl⟩⟩
  case sStop => exact ⟨_, adcStop_next.mpr ⟨h _ rfl, rfl⟩⟩
  case fail => exact ⟨_, adcStop_next.mpr ⟨h _ rfl, rfl⟩⟩
  all_goals exact ⟨_, rfl⟩ -- the micro-operations without a transaction of the ADC

/-- A start and a stop write `ADC_ON` and move the ADC in one step; nothing else touches either (R42, R168). -/
theorem sequencerStep_keeps_adcInStep (ha : AdcInStep s) (ht : sequencerStep s = .next t) : AdcInStep t := by
  rcases sequencerStep_cases ht with ⟨-, rfl⟩ | ⟨-, rfl⟩ | ⟨-, rfl⟩ | ⟨-, rfl⟩ | ⟨-, r, ht, -⟩ | ⟨-, rfl⟩ | ⟨-, rfl⟩ |
    ⟨-, rfl⟩ | ⟨-, rfl⟩ | ⟨-, v, rfl⟩ | ⟨-, rfl⟩ | ⟨-, ⟨-, rfl⟩ | ⟨-, -, rfl⟩ | ⟨-, -, rfl⟩⟩ |
    ⟨-, ⟨-, rfl⟩ | ⟨-, rfl⟩⟩ | ⟨-, rfl⟩ | ⟨-, rfl⟩ | ⟨-, rfl⟩
  any_goals exact ha -- the micro-operations that neither start nor stop the ADC
  · rfl -- S_START
  · rw [ht]; exact ha -- S_POLL
  · rfl -- S_R_STOP
  · rfl -- S_R_START
  · rfl -- S_STOP
  · rfl -- FAIL

/-- Settles O49: by the invariants the ADC is as the phase's transaction needs it. -/
theorem sequencerNeverStuck : Obligations.SequencerNeverStuck := by
  intro s h ha
  have ready (a : AdcState) (needed : adcNeeded s.phase = some a) : s.adc = a :=
    (h.adc_eq ha).trans (adcNeeded_adcRuns needed).symm
  obtain ⟨t, ht⟩ := sequencerStep_answers ready
  exact ⟨t, ht, sequencerStep_keeps_inv h ht, sequencerStep_keeps_adcInStep ha ht⟩

/-! ### `HW_UNAVAILABLE` -/

/-- The end of a sample or a seed clears `ERR`, and only `FAIL` writes another code (R98, R99, R114). -/
theorem sequencerStep_err (ht : sequencerStep s = .next t) : t.err = s.err ∨ t.err = .ok ∨ s.phase = .fail := by
  rcases sequencerStep_cases ht with ⟨-, rfl⟩ | ⟨-, rfl⟩ | ⟨-, rfl⟩ | ⟨-, rfl⟩ | ⟨-, r, ht, -⟩ | ⟨-, rfl⟩ | ⟨-, rfl⟩ |
    ⟨-, rfl⟩ | ⟨-, rfl⟩ | ⟨-, v, rfl⟩ | ⟨-, rfl⟩ | ⟨-, ⟨-, rfl⟩ | ⟨-, -, rfl⟩ | ⟨-, -, rfl⟩⟩ |
    ⟨-, ⟨-, rfl⟩ | ⟨-, rfl⟩⟩ | ⟨-, rfl⟩ | ⟨-, rfl⟩ | ⟨hp, -⟩
  any_goals exact .inl rfl -- the micro-operations that leave `ERR`
  · rw [ht]; exact .inl rfl -- S_POLL
  · exact .inr (.inl rfl) -- S_DECORR at the end of a sample
  · exact .inr (.inl rfl) -- DERIVE
  · exact .inr (.inr hp) -- FAIL

theorem sequencerStep_hwUnavailable (ht : sequencerStep s = .next t) (before : s.err ≠ .hwUnavailable)
    (after : t.err = .hwUnavailable) : s.phase = .fail ∧ execFail s = .next t := by
  rcases sequencerStep_err ht with kept | ok | phase
  · exact absurd (kept.symm.trans after) before
  · simp [ok] at after
  · rw [sequencerStep_phase, phase] at ht
    exact ⟨phase, ht⟩

/-- The host's commands write the other codes only (R125–R129). -/
theorem hostAccess_hwUnavailable {a : Access} (ht : hostAccess a s = .next t) (after : t.err = .hwUnavailable) :
    s.err = .hwUnavailable := by
  rcases hostAccess_cases ht with rfl | ⟨b, rfl⟩ | ⟨-, -, rfl⟩ | ⟨-, -, l, e, rfl⟩ |
    ⟨-, -, ⟨e, rfl | rfl, rfl⟩ | ⟨-, rfl⟩ | ⟨-, rfl⟩ | rfl⟩
  any_goals exact after -- the accesses that leave `ERR`
  all_goals cases after -- an accepted command

/-- A step that makes the error is the sequencer's in `FAIL`. -/
theorem step_hwUnavailable (ht : step s = .next t) (before : s.err ≠ .hwUnavailable) (after : t.err = .hwUnavailable) :
    s.phase = .fail ∧ ∃ agenda, execFail { s with agenda := agenda } = .next t := by
  rcases step_cases ht with ⟨-, ht⟩ | ⟨rest, ⟨-, ht⟩ | ⟨a, -, ht⟩ | ⟨-, ht⟩ | ⟨r, -, rfl⟩⟩
  · exact (sequencerStep_hwUnavailable ht before after).imp_right fun failed => ⟨s.agenda, failed⟩
  · exact (sequencerStep_hwUnavailable ht before after).imp_right fun failed => ⟨rest, failed⟩
  · exact absurd (hostAccess_hwUnavailable ht after) before
  · obtain ⟨b, l, rfl⟩ := waitIdleStep_next ht
    exact absurd after before
  · cases after

/-- Settles O56: `FAIL` is entered only at the bound, and it writes neither `WORD` nor the context. -/
theorem hwUnavailableOnlyAtBound : Obligations.HwUnavailableOnlyAtBound := by
  intro s t h ht before after
  obtain ⟨phase, agenda, failed⟩ := step_hwUnavailable ht before after
  obtain ⟨in_force, reached⟩ := h.fail_bound phase
  obtain ⟨-, rfl⟩ := adcStop_next.mp failed
  exact ⟨phase, in_force, reached, rfl, rfl, rfl, rfl, rfl, rfl⟩

/-! ### Errors at acceptance -/

theorem exec_seedInit_started (hb : s.busy = false) (hi : s.init = false) : exec .seedInit s =
    .next { s with rej := false, err := .ok, done := false, op := .seed, busy := true, phase := .hInit, bus := .written } := by
  rw [exec, execSeedInit, command_idle _ hb, openCommand_init, hi]
  rfl

/-- Settles O10: `INIT` decides between the start of the seed and the refusal. -/
theorem seedInitStartsOrRefuses : Obligations.SeedInitStartsOrRefuses :=
  ⟨fun _ hb hi => exec_seedInit_started hb hi, fun _ hb hi => exec_seedInit_reentry hb hi⟩

/-- Settles O12: the word of an illegal command is nowhere read. -/
theorem illegalCommandReportsError : Obligations.IllegalCommandReportsError := fun w _ hb => exec_illegal_accepted w hb

/-! ### Rejected reads -/

theorem aligned_iff {off : BitVec 8} : aligned off = true ↔ off.toNat % 4 = 0 := by simp [aligned, offset_aligned]

/-- A read of the context before `INIT`=1 is the host program's fault (R149). -/
theorem exec_rd32_faults {off : BitVec 8} (hi : s.init = false) (ha : off.toNat % 4 = 0)
    (hc : readsContext off = true) : exec (.rd32 off) s = .fault (.contextReadBeforeInit off) := by
  rw [exec_rd32, execRd32, if_pos (aligned_iff.mpr ha), hc, hi]
  rfl

/-- Settles O21: each of these offsets is aligned and one of the context's. -/
theorem contextReadBeforeInitFaults : Obligations.ContextReadBeforeInitFaults := by
  refine fun s hi => ⟨exec_rd32_faults hi rfl rfl, exec_rd32_faults hi rfl rfl, fun k hk within => ?_⟩
  have aligned : (BitVec.ofNat 8 (0x40 + 4 * k)).toNat % 4 = 0 := by rw [stateWOffset_toNat hk]; omega
  exact exec_rd32_faults hi aligned (by simp [readsContext_stateW hk, within])

/-- Settles O22: alignment is tested before what the offset selects (R52). -/
theorem misalignedReadGetsBusError : Obligations.MisalignedReadGetsBusError := by
  intro s off misaligned
  rw [exec_rd32, execRd32, if_neg (mt aligned_iff.mp misaligned)]
  rfl

end Sys2Proof.Machine
end

section
/-! PROOFS. Reset and liveness (spec/70_reset_and_hazards.md): what a platform reset sets (R165, R166), the transactions that an
ADC left in the wrong state does not answer (R168; I9), and the end of every operation while the bound is in force (R181). -/

namespace Sys2Proof.Machine

variable {s t : State}

/-! ### Reset -/

/-- Settles O8: every register is the reset state's (R47), and the rest is kept. -/
theorem resetEventSetsRegisters : Obligations.ResetEventSetsRegisters := by
  intro s adcToo rest scheduled
  obtain ⟨status, config, word, progress, -⟩ := resetLeavesSpecifiedValues
  refine ⟨platformReset adcToo { s with agenda := rest }, step_event scheduled, status, config, word, progress,
    rfl, rfl, rfl, rfl, rfl, rfl, rfl, rfl, rfl, rfl, rfl, ?_⟩
  rintro rfl
  rfl

/-! ### Transactions without an answer -/

theorem adcStart_unanswered (k : State → State) (started : s.adc = .started) :
    adcStart k s = .fault (.adcUnanswered .start) := if_neg (by simp [started])

theorem adcStop_unanswered (k : State → State) (stopped : s.adc = .stopped) :
    adcStop k s = .fault (.adcUnanswered .stop) := if_neg (by simp [stopped])

theorem adcPoll_unanswered (k : PollAnswer → State → State) (stopped : s.adc = .stopped) :
    adcPoll k s = .fault (.adcUnanswered .poll) := if_neg (by simp [stopped])

theorem adcRead_unanswered (k : BitVec Config.adcWidth → State → State) (stopped : s.adc = .stopped) :
    adcRead k s = .fault (.adcUnanswered .read) := if_neg (by simp [stopped])

/-- Settles O35: each of these micro-operations is its transaction, and what follows the answer is not reached. -/
theorem unansweredAdcTransactionFaults : Obligations.UnansweredAdcTransactionFaults := by
  refine fun s => ⟨fun started => ?_, fun stopped => ?_⟩
  · simp only [exec, execSStart, execSRStart, adcStart_unanswered _ started, and_self]
  · simp only [exec, execSPoll, execSRead, execSRStop, execSStop, execFail, adcPoll_unanswered _ stopped,
      adcRead_unanswered _ stopped, adcStop_unanswered _ stopped, and_self]

/-! ### How many steps an operation has left

The number of the current sample's remaining steps, of the word's remaining samples and of the seed's remaining words add up to
`stepsLeft`, which every step of the sequencer makes smaller. -/

/-- The most steps to the end of the current sample from a phase of it, with `retries` counted and `limit` allowed: six in all,
and the five of a cycle for each retry still allowed (R103). -/
def Phase.stepsInSample (limit retries : Nat) : Phase → Nat
  | .sStart => 5 * limit + 6
  | .sSettle => 5 * (limit - retries) + 5
  | .sPoll => 5 * (limit - retries) + 4
  | .sRStop => 5 * (limit - retries) + 8
  | .sRWait => 5 * (limit - retries) + 7
  | .sRStart => 5 * (limit - retries) + 6
  | .sRSettle => 5 * (limit - retries) + 5
  | .sRead => 3
  | .sStop => 2
  | .sDecorr | .fail => 1
  | .idle | .hInit | .hUpdate | .hFinal | .derive => 0

/-- The most steps that one sample takes (R103). -/
def sampleBound (s : State) : Nat := 6 + 5 * s.limit.toNat

/-- The samples of the word that follow the current one: each takes two bits of the 32 (R95, R98). -/
def samplesAfter (s : State) : Nat :=
  if s.phase.beforePack then 15 - s.bitcnt.toNat / 2 else 16 - s.bitcnt.toNat / 2

/-- The most steps that follow a complete word: none for a sample, and for a seed its `H_UPDATE`, the words still to come, each
of 16 samples and an `H_UPDATE`, and at the end `H_FINAL` and `DERIVE` (R112–R114). -/
def stepsAfterWord (s : State) : Nat :=
  if s.op = .sample then 0 else (16 * sampleBound s + 1) * (7 - s.ebits.toNat / 32) + 3

/-- The most steps that follow the current sample. -/
def stepsAfterSample (s : State) : Nat := sampleBound s * samplesAfter s + stepsAfterWord s

/-- The most steps that the operation still takes while the bound is in force (R181). -/
def stepsLeft (s : State) : Nat :=
  match s.phase with
  | .idle => 0
  | .hInit => 11 + 128 * sampleBound s
  | .hFinal => 2
  | .derive => 1
  | p => p.stepsInSample s.limit.toNat s.rcnt.toNat + stepsAfterSample s

theorem stepsLeft_building {p : Phase} (hp : s.phase = p) (building : p.building = true) :
    stepsLeft s = p.stepsInSample s.limit.toNat s.rcnt.toNat + stepsAfterSample s := by
  unfold stepsLeft
  subst hp
  cases hp : s.phase <;> simp [hp, Phase.building] at building ⊢

/-- Where as many steps follow the sample, the steps within it decide. -/
theorem stepsLeft_lt_of_stepsInSample {p q : Phase} (hp : s.phase = p) (hq : t.phase = q)
    (after : stepsAfterSample t = stepsAfterSample s)
    (less : q.stepsInSample t.limit.toNat t.rcnt.toNat < p.stepsInSample s.limit.toNat s.rcnt.toNat)
    (building : p.building = true := by rfl) (building' : q.building = true := by rfl) : stepsLeft t < stepsLeft s := by
  rw [stepsLeft_building hp building, stepsLeft_building hq building', after]
  exact Nat.add_lt_add_right less _

/-- A step that neither packs a sample nor writes a register that the steps after the sample depend on; most take one step of
the sample's. -/
theorem stepsLeft_lt_of_sameSample {p q : Phase} (hp : s.phase = p) (hq : t.phase = q)
    (less : q.stepsInSample t.limit.toNat t.rcnt.toNat < p.stepsInSample s.limit.toNat s.rcnt.toNat := by
      exact Nat.lt_succ_self _)
    (building : p.building = true := by rfl) (building' : q.building = true := by rfl)
    (packing : q.beforePack = p.beforePack := by rfl) (limit : t.limit = s.limit := by rfl)
    (op : t.op = s.op := by rfl) (bitcnt : t.bitcnt = s.bitcnt := by rfl) (ebits : t.ebits = s.ebits := by rfl) :
    stepsLeft t < stepsLeft s := by
  have after : stepsAfterSample t = stepsAfterSample s := by
    simp only [stepsAfterSample, samplesAfter, stepsAfterWord, sampleBound, hp, hq, packing, limit, op, bitcnt, ebits]
  exact stepsLeft_lt_of_stepsInSample hp hq after less building building'

theorem stepsLeft_lt_of_finished {p : Phase} (hp : s.phase = p) (idle : t.phase = .idle) (building : p.building = true)
    (more : 0 < p.stepsInSample s.limit.toNat s.rcnt.toNat) : stepsLeft t < stepsLeft s := by
  have none_left : stepsLeft t = 0 := by rw [stepsLeft, idle]
  rw [none_left, stepsLeft_building hp building]
  exact Nat.lt_add_right _ more

/-- Before a sample, `sampleBound` counts that sample like the others of the word. -/
theorem stepsLeft_sStart (hp : s.phase = .sStart) (room : s.bitcnt.toNat < 32) :
    stepsLeft s = sampleBound s * (16 - s.bitcnt.toNat / 2) + stepsAfterWord s := by
  have current : 16 - s.bitcnt.toNat / 2 = 15 - s.bitcnt.toNat / 2 + 1 := by omega
  have others : samplesAfter s = 15 - s.bitcnt.toNat / 2 := by rw [samplesAfter, hp]; rfl
  rw [stepsLeft_building hp rfl, stepsAfterSample, others, current, Nat.mul_succ, sampleBound, Phase.stepsInSample]
  omega

/-- With the word complete no sample is left. -/
theorem stepsAfterSample_full (hp : s.phase.beforePack = false) (full : s.bitcnt.toNat = 32) :
    stepsAfterSample s = stepsAfterWord s := by
  simp [stepsAfterSample, samplesAfter, hp, full]

theorem stepsAfterWord_sample (sample : s.op = .sample) : stepsAfterWord s = 0 := if_pos sample

theorem stepsAfterWord_seed (seed : s.op = .seed) :
    stepsAfterWord s = (16 * sampleBound s + 1) * (7 - s.ebits.toNat / 32) + 3 := if_neg (by simp [seed])

/-- A seed that begins a word has that word and the others left, 16 samples and an `H_UPDATE` each, and its last two steps; the
step that begins it is one more. -/
theorem stepsLeft_beginWord {fed : Nat} (seed : s.op = .seed) (words : s.ebits.toNat = 32 * fed) (room : fed < 8) :
    stepsLeft (beginWord s) + 1 = (16 * sampleBound s + 1) * (8 - fed) + 3 := by
  have after : stepsAfterWord (beginWord s) = (16 * sampleBound s + 1) * (7 - fed) + 3 := by
    rw [stepsAfterWord_seed (s := beginWord s) seed, beginWord_ebits, words, Nat.mul_div_cancel_left fed (by decide)]
    rfl
  have current : 8 - fed = 7 - fed + 1 := by omega
  calc stepsLeft (beginWord s) + 1
      = sampleBound s * 16 + ((16 * sampleBound s + 1) * (7 - fed) + 3) + 1 := by
        rw [stepsLeft_sStart (s := beginWord s) rfl (by simp), after, beginWord_bitcnt]; rfl
    _ = (16 * sampleBound s + 1) * (7 - fed) + (16 * sampleBound s + 1) + 3 := by omega
    _ = (16 * sampleBound s + 1) * (8 - fed) + 3 := by rw [current, Nat.mul_succ]

theorem stepsLeft_hInit (hp : s.phase = .hInit) : stepsLeft s = 11 + 128 * sampleBound s := by rw [stepsLeft, hp]

/-- A packed sample is no longer the current one but one of those that `BITCNT` counts (R95). -/
theorem stepsAfterSample_packSample (hp : s.phase = .sRead) (room : s.bitcnt.toNat < 32) (raw : BitVec Config.adcWidth) :
    stepsAfterSample (packSample raw s) = stepsAfterSample s := by
  have before : samplesAfter s = 15 - s.bitcnt.toNat / 2 := by rw [samplesAfter, hp]; rfl
  have packed : samplesAfter (packSample raw s) = 16 - (s.bitcnt + 2#6).toNat / 2 := rfl
  have same : samplesAfter (packSample raw s) = samplesAfter s := by rw [before, packed, bitcnt_add_two room]; omega
  rw [stepsAfterSample, same]
  rfl

/-- At `H_UPDATE` the word is fed, and the others are still to come. -/
theorem stepsLeft_hUpdate {fed : Nat} (hp : s.phase = .hUpdate) (seed : s.op = .seed) (full : s.bitcnt.toNat = 32)
    (words : s.ebits.toNat = 32 * fed) : stepsLeft s = (16 * sampleBound s + 1) * (7 - fed) + 3 := by
  rw [stepsLeft_building hp rfl, stepsAfterSample_full (by rw [hp]; rfl) full, stepsAfterWord_seed seed, words,
    Nat.mul_div_cancel_left fed (by decide)]
  exact Nat.zero_add _

/-- `H_UPDATE` goes on to the next word or to `H_FINAL` (R112). -/
theorem execHUpdate_stepsLeft (h : Inv s) (hp : s.phase = .hUpdate) (ht : execHUpdate s = .next t) :
    stepsLeft t < stepsLeft s := by
  have seed : s.op = .seed := h.op_feeder (by rw [hp]; rfl)
  have room := h.ebits_lt seed (by rw [hp]; rfl)
  have added := ebits_add_word room
  obtain ⟨fed, words⟩ := Nat.dvd_of_mod_eq_zero h.ebits_multiple
  rw [stepsLeft_hUpdate hp seed (h.bitcnt_full hp) words]
  obtain rfl := Host.Outcome.next.inj ht
  rcases feedNext_cases { hashUpdate (bytesLE s.acc) s with ebits := s.ebits + 32#9 } with
    ⟨more, fed_next⟩ | ⟨-, fed_next⟩ <;> rw [fed_next]
  · have fed_lt : fed + 1 < 8 := by
      change (s.ebits + 32#9).toNat < 256 at more
      omega
    have begun := stepsLeft_beginWord (s := { hashUpdate (bytesLE s.acc) s with ebits := s.ebits + 32#9 })
      seed (added.trans (by omega)) fed_lt
    rw [Nat.succ_sub_succ 7 fed] at begun
    change _ = (16 * sampleBound s + 1) * (7 - fed) + 3 at begun
    omega
  · exact Nat.lt_of_lt_of_le (Nat.lt_succ_self 2) (Nat.le_add_left 3 _)

/-- The sequencer's step brings the end of the operation nearer (R89, R98, R112). -/
theorem sequencerStep_stepsLeft (h : Inv s) (bounded : s.limitEn = true) (running : s.phase ≠ .idle)
    (ht : sequencerStep s = .next t) : stepsLeft t < stepsLeft s := by
  have room := h.bitcnt_lt
  have retries := h.rcnt_le bounded
  have seed := h.op_feeder
  rcases sequencerStep_cases ht with ⟨hp, rfl⟩ | ⟨hp, rfl⟩ | ⟨hp, rfl⟩ | ⟨hp, rfl⟩ | ⟨hp, r, ht, hpoll⟩ | ⟨hp, rfl⟩ |
    ⟨hp, rfl⟩ | ⟨hp, rfl⟩ | ⟨hp, rfl⟩ | ⟨hp, v, rfl⟩ | ⟨hp, rfl⟩ | ⟨hp, hloop⟩ | ⟨hp, hloop⟩ | ⟨hp, rfl⟩ | ⟨hp, rfl⟩ |
    ⟨hp, rfl⟩ <;> rw [hp] at room retries seed
  · -- IDLE
    exact absurd hp running
  · -- H_INIT
    have begun := stepsLeft_beginWord (s := { hashInit Config.ctxTag s with hctxOpen := true, ebits := 0 }) (fed := 0)
      (seed rfl) rfl (by decide)
    rw [stepsLeft_hInit hp]
    change _ = (16 * sampleBound s + 1) * 8 + 3 at begun
    omega
  · -- S_START
    exact stepsLeft_lt_of_sameSample hp rfl
  · -- S_SETTLE
    exact stepsLeft_lt_of_sameSample hp rfl
  · -- S_POLL
    rcases hpoll with ⟨-, hq, hc⟩ | ⟨-, -, -, hq, hc⟩ | ⟨-, hlim, hq, hc⟩ <;> rw [hq, hc] at ht <;> subst ht
    · exact stepsLeft_lt_of_sameSample hp rfl (show 3 < 5 * (s.limit.toNat - s.rcnt.toNat) + 4 by omega)
    · exact stepsLeft_lt_of_sameSample hp rfl (show 1 < 5 * (s.limit.toNat - s.rcnt.toNat) + 4 by omega)
    · have below : s.rcnt.toNat < s.limit.toNat :=
        lt_of_le_of_ne (retries rfl) fun he => hlim ⟨bounded, BitVec.eq_of_toNat_eq he⟩
      exact stepsLeft_lt_of_sameSample hp rfl (show 5 * (s.limit.toNat - (countRetry s.rcnt).toNat) + 8 <
        5 * (s.limit.toNat - s.rcnt.toNat) + 4 by rw [countRetry_toNat]; omega)
  · -- S_R_STOP
    exact stepsLeft_lt_of_sameSample hp rfl
  · -- S_R_WAIT
    exact stepsLeft_lt_of_sameSample hp rfl
  · -- S_R_START
    exact stepsLeft_lt_of_sameSample hp rfl
  · -- S_R_SETTLE
    exact stepsLeft_lt_of_sameSample hp rfl
  · -- S_READ
    exact stepsLeft_lt_of_stepsInSample hp rfl (stepsAfterSample_packSample hp (room rfl) v) (Nat.lt_succ_self 2)
  · -- S_STOP
    exact stepsLeft_lt_of_sameSample hp rfl
  · -- S_DECORR
    rcases hloop with ⟨more, rfl⟩ | ⟨-, -, rfl⟩ | ⟨-, -, rfl⟩
    · have next_sample : stepsLeft { s with phase := .sStart } = stepsAfterSample s := by
        rw [stepsLeft_sStart (s := { s with phase := .sStart }) rfl more, stepsAfterSample, samplesAfter, hp]
        rfl
      rw [next_sample, stepsLeft_building hp rfl]
      exact Nat.lt_add_of_pos_left Nat.one_pos
    · exact stepsLeft_lt_of_finished hp rfl rfl Nat.one_pos
    · exact stepsLeft_lt_of_sameSample hp rfl
  · -- H_UPDATE
    rw [sequencerStep_phase, hp] at ht
    exact execHUpdate_stepsLeft h hp ht
  · -- H_FINAL
    simp [stepsLeft, hp]
  · -- DERIVE
    simp [stepsLeft, hp]
  · -- FAIL
    exact stepsLeft_lt_of_finished hp rfl rfl Nat.one_pos

/-- The sequencer never writes the schedule or `OP` (R34, R62). -/
theorem sequencerStep_leaves (ht : sequencerStep s = .next t) : t.agenda = s.agenda ∧ t.op = s.op := by
  rcases sequencerStep_cases ht with ⟨-, rfl⟩ | ⟨-, rfl⟩ | ⟨-, rfl⟩ | ⟨-, rfl⟩ | ⟨-, r, ht, -⟩ | ⟨-, rfl⟩ | ⟨-, rfl⟩ |
    ⟨-, rfl⟩ | ⟨-, rfl⟩ | ⟨-, v, rfl⟩ | ⟨-, rfl⟩ | ⟨-, ⟨-, rfl⟩ | ⟨-, -, rfl⟩ | ⟨-, -, rfl⟩⟩ |
    ⟨-, ⟨-, rfl⟩ | ⟨-, rfl⟩⟩ | ⟨-, rfl⟩ | ⟨-, rfl⟩ | ⟨-, rfl⟩
  any_goals exact ⟨rfl, rfl⟩ -- every micro-operation but `S_POLL`
  rw [ht]
  exact ⟨rfl, rfl⟩

/-! ### The end of an operation -/

/-- How an operation ends (R182): in `IDLE` with `OK`, and then a seed has written the context, or with `HW_UNAVAILABLE`, and
then it has not. -/
structure Ended (t : State) : Prop where
  idle : t.phase = .idle
  busy : t.busy = false
  done : t.done = true
  result : (t.err = .ok ∧ (t.op = .seed → t.init = true)) ∨ (t.err = .hwUnavailable ∧ (t.op = .seed → t.init = false))

/-- The sequencer goes to `IDLE` at the end of a sample, in `DERIVE` and in `FAIL` (R98, R99, R114). -/
theorem sequencerStep_ended (h : Inv s) (running : s.phase ≠ .idle) (ht : sequencerStep s = .next t)
    (idle : t.phase = .idle) : Ended t := by
  rcases sequencerStep_cases ht with ⟨hp, -⟩ | ⟨-, rfl⟩ | ⟨-, rfl⟩ | ⟨-, rfl⟩ | ⟨-, r, -, hpoll⟩ | ⟨-, rfl⟩ | ⟨-, rfl⟩ |
    ⟨-, rfl⟩ | ⟨-, rfl⟩ | ⟨-, v, rfl⟩ | ⟨-, rfl⟩ | ⟨-, ⟨-, rfl⟩ | ⟨-, sample, rfl⟩ | ⟨-, -, rfl⟩⟩ |
    ⟨-, ⟨-, rfl⟩ | ⟨-, rfl⟩⟩ | ⟨-, rfl⟩ | ⟨-, rfl⟩ | ⟨-, rfl⟩
  any_goals cases idle -- the micro-operations that go on to another phase
  · exact absurd hp running -- IDLE
  · -- S_POLL
    rcases hpoll with ⟨-, hq, -⟩ | ⟨-, -, -, hq, -⟩ | ⟨-, -, hq, -⟩ <;> rw [hq] at idle <;> cases idle
  · exact ⟨rfl, rfl, rfl, .inl ⟨rfl, fun seed => by simp [sample] at seed⟩⟩ -- S_DECORR at the end of a sample
  · exact ⟨rfl, rfl, rfl, .inl ⟨rfl, fun _ => rfl⟩⟩ -- DERIVE
  · exact ⟨rfl, rfl, rfl, .inr ⟨rfl, h.seed_once running⟩⟩ -- FAIL

theorem run_sequencerStep (unscheduled : s.agenda = []) (ht : sequencerStep s = .next t) (k : Nat) :
    run (k + 1) s = run k t := by
  rw [run, step_idle_agenda unscheduled, ht]

/-- With the bound in force and nothing scheduled a running operation ends within the steps that it has left: each step leaves
fewer (R181). -/
theorem run_ended (h : Inv s) (adc : AdcInStep s) (unscheduled : s.agenda = []) (bounded : s.limitEn = true)
    (running : s.phase ≠ .idle) : ∃ n t, n ≤ stepsLeft s ∧ run n s = .next t ∧ t.op = s.op ∧ Ended t := by
  induction left : stepsLeft s using Nat.strong_induction_on generalizing s with
  | _ left' ih =>
    obtain ⟨u, hu, h', adc'⟩ := sequencerNeverStuck s h adc
    have less := sequencerStep_stepsLeft h bounded running hu
    obtain ⟨agenda_eq, op_eq⟩ := sequencerStep_leaves hu
    have run_succ := run_sequencerStep unscheduled hu
    by_cases idle : u.phase = .idle
    · exact ⟨1, u, by omega, run_succ 0, op_eq, sequencerStep_ended h running hu idle⟩
    · obtain ⟨n, t, fewer, ht, op_eq', ended⟩ := ih (stepsLeft u) (left ▸ less) h' adc' (agenda_eq.trans unscheduled)
        ((sequencerStep_writes hu).limitEn_eq.trans bounded) idle rfl
      exact ⟨n + 1, t, by omega, (run_succ n).trans ht, op_eq'.trans op_eq, ended⟩

/-- Settles O59: a word that is begun has 16 samples left. -/
theorem boundedSampleTerminates : Obligations.BoundedSampleTerminates := by
  intro s h adc unscheduled bounded sample start empty
  obtain ⟨n, t, within, ht, -, ended⟩ := run_ended h adc unscheduled bounded (by simp [start])
  have left : stepsLeft s = 16 * (6 + 5 * s.limit.toNat) := by
    rw [stepsLeft_sStart start (by simp [empty]), stepsAfterWord_sample sample, empty]
    exact Nat.mul_comm _ _
  exact ⟨n, t, left ▸ within, ht, ended.idle, ended.busy, ended.done, ended.result.imp And.left And.left⟩

/-- Settles O60: `H_INIT` is a phase of a seed, and a seed has written the context when it ends with `OK`. -/
theorem boundedSeedTerminates : Obligations.BoundedSeedTerminates := by
  intro s h adc unscheduled bounded start
  obtain ⟨n, t, within, ht, op_eq, ended⟩ := run_ended h adc unscheduled bounded (by simp [start])
  have seed : t.op = .seed := op_eq.trans (h.op_feeder (by rw [start]; rfl))
  refine ⟨n, t, (stepsLeft_hInit start) ▸ within, ht, ended.idle, ended.busy, ended.done, ?_⟩
  exact ended.result.imp (fun ⟨err, init⟩ => ⟨err, init seed⟩) (fun ⟨err, init⟩ => ⟨err, init seed⟩)

end Sys2Proof.Machine
end
